-- ==== Sys2Proof/Word.lean ====
section
/-! DEFINITION. The word types of the block: b8, b16 and b32 of 00_scope.md R10. All values are unsigned. -/

namespace Sys2Proof

/-- b8: a byte, an octet of frame data or the DATA field of a command (R8, R10). -/
abbrev Byte := BitVec 8

/-- b16: a CRC value or a counter (R8, R10). -/
abbrev Half := BitVec 16

/-- b32: a register value or a command word (R8, R10). -/
abbrev Word := BitVec 32

end Sys2Proof
end

