-- ==== Sys2Proof/Syntax.lean ====
section
/-! DEFINITION. The ten commands of CRCHDLC, one constructor per row of spec/opcode_table.json (30_encoding.md R71). -/

namespace Sys2Proof

/-- A command. The only operand a command can have is DATA, a b8 taken unchanged (R73). -/
inductive Instr where
  /-- NOP (R140). -/
  | nop
  /-- CRC_INIT (R92). -/
  | crcInit
  /-- CRC_BYTE d (R93). -/
  | crcByte (d : Byte)
  /-- TX_START (R102). -/
  | txStart
  /-- TX_BYTE d (R103). -/
  | txByte (d : Byte)
  /-- TX_END (R104). -/
  | txEnd
  /-- RX_START (R122). -/
  | rxStart
  /-- RX_BYTE d (R124). -/
  | rxByte (d : Byte)
  /-- RX_END (R125). -/
  | rxEnd
  /-- SOFT_RESET (R141). -/
  | softReset
  deriving DecidableEq, Repr

end Sys2Proof
end

