-- ==== Sys2Proof/Decode.lean ====
section
/-! DEFINITION. Decoding a command word (30_encoding.md R70 to R75), total on every b32, and the encoder beside it. -/

namespace Sys2Proof

/-- RSV, bits 31:16 of a command word (R70). -/
def rsvField (w : Word) : Half := w.extractLsb' 16 16

/-- OP, bits 15:8 (R70). -/
def opField (w : Word) : Byte := w.extractLsb' 8 8

/-- DATA, bits 7:0, taken unchanged (R70, R73). -/
def dataField (w : Word) : Byte := w.extractLsb' 0 8

/-- Why a word is no command: the three causes of R74, in the order R72 checks them. -/
inductive DecodeError where
  /-- RSV is nonzero. -/
  | reservedField
  /-- OP is not in the opcode map of R71. -/
  | reservedOpcode
  /-- DATA is nonzero for an opcode whose DATA must be 0. -/
  | nonzeroData
  deriving DecidableEq, Repr

/-- An opcode whose DATA must be 0 (R72). -/
def dataless (i : Instr) (d : Byte) : Except DecodeError Instr :=
  if d = 0 then .ok i else .error .nonzeroData

/-- The opcode map of R71, complete: every other OP is reserved. -/
def decodeOp (op d : Byte) : Except DecodeError Instr :=
  if op = 0x00 then dataless .nop d
  else if op = 0x01 then dataless .crcInit d
  else if op = 0x02 then .ok (.crcByte d)
  else if op = 0x10 then dataless .txStart d
  else if op = 0x11 then .ok (.txByte d)
  else if op = 0x12 then dataless .txEnd d
  else if op = 0x20 then dataless .rxStart d
  else if op = 0x21 then .ok (.rxByte d)
  else if op = 0x22 then dataless .rxEnd d
  else if op = 0xFF then dataless .softReset d
  else .error .reservedOpcode

/-- R72's `decode_cmd`: the first cause that applies is the one reported. -/
def decodeWord (w : Word) : Except DecodeError Instr :=
  if rsvField w = 0 then decodeOp (opField w) (dataField w) else .error .reservedField

/-- OP of a command (R71). -/
def opcode (i : Instr) : Byte :=
  match i with
  | .nop => 0x00
  | .crcInit => 0x01
  | .crcByte _ => 0x02
  | .txStart => 0x10
  | .txByte _ => 0x11
  | .txEnd => 0x12
  | .rxStart => 0x20
  | .rxByte _ => 0x21
  | .rxEnd => 0x22
  | .softReset => 0xFF

/-- DATA of a command: its data byte, or 0 (R71). -/
def operandByte (i : Instr) : Byte :=
  match i with
  | .nop => 0
  | .crcInit => 0
  | .crcByte d => d
  | .txStart => 0
  | .txByte d => d
  | .txEnd => 0
  | .rxStart => 0
  | .rxByte d => d
  | .rxEnd => 0
  | .softReset => 0

/-- The word of a command: RSV = 0, OP, DATA (R70). -/
def encode (i : Instr) : Word := 0#16 ++ opcode i ++ operandByte i

/-- The command of an opcode-table row's word. A command is exactly one 32-bit word (R75), so a longer row is none. -/
def decodeTableWord (nbits w : Nat) : Option Instr :=
  if nbits ≤ 32 then (decodeWord (BitVec.ofNat 32 (w % 2 ^ nbits))).toOption else none

end Sys2Proof
end

