-- ==== Sys2Proof/Config.lean ====
section
/-! DEFINITION. The fixed constants and the open parameters of the block (00_scope.md R8).
The constants are named apart from the algorithms that use them. BASE, TX_CAP and RX_CAP are arguments of the model. -/

namespace Sys2Proof.Config

/-- POLY (R8). -/
def poly : Half := 0x8408

/-- CRC_INIT_VALUE (R8). -/
def crcInitValue : Half := 0xFFFF

/-- CRC_XOROUT (R8): XOR with it is the bitwise complement of the 16-bit accumulator. -/
def crcXorOut : Half := 0xFFFF

/-- ESC, the escape marker (R8). -/
def esc : Byte := 0x7D

/-- FLAG, the frame terminator (R8). -/
def flag : Byte := 0x7E

/-- XMASK (R8). -/
def xmask : Byte := 0x20

/-- The register window is 0x20 bytes (R8, R50). -/
def windowSize : Nat := 0x20

end Sys2Proof.Config

namespace Sys2Proof

/-- The open parameters of R8. No command and no access writes one (R45). -/
structure Params where
  /-- BASE, the bus address of the window. -/
  base : Nat
  /-- TX_CAP, the TX FIFO's capacity in bytes. -/
  txCap : Nat
  /-- RX_CAP, the RX FIFO's capacity in bytes. -/
  rxCap : Nat
  deriving DecidableEq, Repr

/-- The defaults of R8 for TX_CAP and RX_CAP. R8 gives BASE no default: DESIGN CHOICE, BASE = 0 (log 1). -/
def Params.default : Params := { base := 0, txCap := 512, rxCap := 512 }

end Sys2Proof
end

