-- ==== Sys2Proof/Machine/State.lean ====
section
/-! DEFINITION. The state of the block (10_state.md R20 to R32), what its host is about to do, and its value after reset. -/

namespace Sys2Proof.Machine

/-- TX_PHASE (R21). -/
inductive TxPhase where
  | idle
  | data
  deriving DecidableEq, Repr

/-- RX_PHASE (R24). -/
inductive RxPhase where
  | idle
  | data
  | esc
  | done
  | fail
  deriving DecidableEq, Repr

/-- RX_ERR (R31, R153). -/
inductive RxErr where
  | none
  | noTerminator
  | shortFrame
  deriving DecidableEq, Repr

/-- CMD_RESULT (R32, R152). -/
inductive CmdResult where
  | ok
  | illegal
  | sequence
  | full
  deriving DecidableEq, Repr

/-- What an access does; a write brings its write data, `wdata` of R51. -/
inductive Direction where
  | read
  | write (value : Word)
  deriving DecidableEq, Repr

/-- One host access, `MemRead(addr, size)` or `MemWrite(addr, size, value)` (R10), with its byte lanes (R51 `strb`). -/
structure Access where
  addr : Nat
  size : Nat
  lanes : BitVec 4
  direction : Direction
  deriving DecidableEq, Repr

/-- What can reach the block from outside, in the order it reaches it (R64, R81, R163, R170). -/
inductive HostEvent where
  /-- An access by the host. -/
  | access (a : Access)
  /-- DRAIN_TX of R81: read TXOUT until a read returns VALID = 0. -/
  | drainTx
  /-- DRAIN_RX of R81: read RXOUT until a read returns VALID = 0. -/
  | drainRx
  /-- The reset input rst_n is driven low (R170). -/
  | resetLow
  /-- The reset input rst_n is released (R174). -/
  | resetHigh
  /-- An access by a second bus master (R163). -/
  | foreign (a : Access)
  deriving DecidableEq, Repr

/-- The machine's state: the thirteen elements of 10_state.md, the level of the reset pin, and the model's own fields
(the parameters, the host's program, what the program has observed). Plain data. -/
structure State where
  /-- G, the generator accumulator before the final complement (R20). -/
  g : Half
  /-- TX_PHASE (R21). -/
  txPhase : TxPhase
  /-- TX_FIFO, oldest byte first (R22). -/
  txFifo : List Byte
  /-- TX_LEN (R23). -/
  txLen : Half
  /-- RX_PHASE (R24). -/
  rxPhase : RxPhase
  /-- RX_HOLD, the delay line, older byte first (R25). -/
  rxHold : List Byte
  /-- RX_FIFO, oldest byte first (R26). -/
  rxFifo : List Byte
  /-- RX_LEN (R27). -/
  rxLen : Half
  /-- RX_ACC (R28). -/
  rxAcc : Half
  /-- RX_FCS (R29). -/
  rxFcs : Half
  /-- CRC_MATCH (R30). -/
  crcMatch : Bool
  /-- RX_ERR (R31). -/
  rxErr : RxErr
  /-- CMD_RESULT (R32). -/
  cmdResult : CmdResult
  /-- The level of rst_n: true is released (R51, R170; log 5). -/
  rstN : Bool
  /-- BASE, TX_CAP, RX_CAP: parameters of the model, never written (R8, R45; log 1). -/
  params : Params
  /-- What the host has still to do, in the order the block receives it (R7, R64; log 2). -/
  pending : List HostEvent
  /-- The values the program's reads have returned, oldest first (R7; log 4). -/
  observed : List Word
  deriving DecidableEq, Repr

/-- Why the machine stops with a fault. -/
inductive Fault where
  /-- Raised by a host access to the window that is not an aligned 32-bit access with all four lanes (R52, R154).
  Safe: the block itself would answer with read data 0 and an error response and keep all state (log 6). -/
  | busError
  deriving DecidableEq, Repr

/-- Why the model gives no meaning. -/
inductive Refusal where
  /-- Raised by no instruction of this model: all ten commands have their meaning. Safe. -/
  | notModelled (mnemonic : String)
  /-- Raised by an access that touches no byte of the window, so is no access to this block (R50). Safe (log 7). -/
  | outsideWindow
  /-- Raised by an access to the window while rst_n is low (R172, I11). Safe (log 8). -/
  | accessDuringReset
  /-- Raised by an access of a second bus master (R163, I15). Safe (log 8). -/
  | secondMaster
  deriving DecidableEq, Repr

/-- The outcome of a step, a command or an access. -/
abbrev Result := Host.Outcome State Fault Refusal

/-- The state after reset (R170), with rst_n released, the default parameters, and nothing yet to do or observed. -/
def State.reset : State where
  g := 0xFFFF
  txPhase := .idle
  txFifo := []
  txLen := 0
  rxPhase := .idle
  rxHold := []
  rxFifo := []
  rxLen := 0
  rxAcc := 0xFFFF
  rxFcs := 0x0000
  crcMatch := false
  rxErr := .none
  cmdResult := .ok
  rstN := true
  params := Params.default
  pending := []
  observed := []

end Sys2Proof.Machine
end

