-- ==== Sys2Proof/Machine/Codec.lean ====
section
/-! DEFINITION. The functions the source fixes: the CRC (40_crc.md R90, R91), escaping and the frame encoder
(41_encoder.md R100, R101), the frame decoder (42_decoder.md R120). They touch no state; the engines compute them
byte by byte. -/

namespace Sys2Proof.Machine

/-- One of the eight inner iterations of R90: the low bit is tested before the logical shift. -/
def crcShift (acc : Half) : Half :=
  if acc.getLsbD 0 then (acc >>> 1) ^^^ Config.poly else acc >>> 1

/-- n inner iterations of R90. -/
def crcShifts (n : Nat) (acc : Half) : Half :=
  match n with
  | 0 => acc
  | k + 1 => crcShifts k (crcShift acc)

/-- R90, `crc_step`: XOR the byte into bits 7:0, then eight iterations. -/
def crcStep (acc : Half) (b : Byte) : Half := crcShifts 8 (acc ^^^ b.setWidth 16)

/-- R91, `acc_over`: the bytes are consumed first to last. -/
def accOver (acc : Half) (s : List Byte) : Half :=
  match s with
  | [] => acc
  | b :: rest => accOver (crcStep acc b) rest

/-- The final complement within 16 bits (R8 CRC_XOROUT, R91). -/
def crcFinal (acc : Half) : Half := acc ^^^ Config.crcXorOut

/-- R91, `crc16`. -/
def crc16 (s : List Byte) : Half := crcFinal (accOver Config.crcInitValue s)

/-- `k & 0xFF`. -/
def lowByte (k : Half) : Byte := k.extractLsb' 0 8

/-- `k >> 8`. -/
def highByte (k : Half) : Byte := k.extractLsb' 8 8

/-- The 16-bit value whose low byte came first (R29, R61). -/
def halfOfBytes (lo hi : Byte) : Half := lo.setWidth 16 ||| (hi.setWidth 16 <<< 8)

/-- The two checksum bytes in wire order, low byte first (R61). -/
def fcsBytes (k : Half) : List Byte := [lowByte k, highByte k]

/-- R100, `esc`: only 0x7D and 0x7E are escaped, each once. -/
def escapeByte (b : Byte) : List Byte :=
  if b = Config.esc ∨ b = Config.flag then [Config.esc, b ^^^ Config.xmask] else [b]

/-- Escaping first to last (R101). -/
def escapeAll (s : List Byte) : List Byte :=
  match s with
  | [] => []
  | b :: rest => escapeByte b ++ escapeAll rest

/-- R101, `encode`: data and checksum escaped, then the terminator, which is never escaped. -/
def encodeFrame (c : List Byte) : List Byte := escapeAll (c ++ fcsBytes (crc16 c)) ++ [Config.flag]

/-- The result of R120's `decode`: `OK(p, f)` or `FAIL(e)`. -/
inductive FrameResult where
  | ok (payload : List Byte) (fcs : Half)
  | fail (e : RxErr)
  deriving DecidableEq, Repr

/-- The first unescaped 0x7E, with the bytes d decoded before it: the last two decoded bytes are the checksum
(R120, D21, D22). -/
def finishFrame (d : List Byte) : FrameResult :=
  match d.drop (d.length - 2) with
  | [lo, hi] => .ok (d.take (d.length - 2)) (halfOfBytes lo hi)
  | _ => .fail .shortFrame

/-- The loop of R120, with the bytes d decoded so far. -/
def decodeFrom (d : List Byte) (r : List Byte) : FrameResult :=
  match r with
  | [] => .fail .noTerminator
  | [b] => if b = Config.flag then finishFrame d else .fail .noTerminator
  | b :: x :: rest =>
    if b = Config.flag then finishFrame d
    else if b = Config.esc then decodeFrom (d ++ [x ^^^ Config.xmask]) rest
    else decodeFrom (d ++ [b]) (x :: rest)

/-- R120, `decode`. Bytes after the terminator are not examined; the checksum is not compared (R130). -/
def decodeFrame (r : List Byte) : FrameResult := decodeFrom [] r

end Sys2Proof.Machine
end

