-- ==== Sys2Proof/Machine/Flags.lean ====
section
/-! DEFINITION. The block's only condition codes: the fields of STATUS (10_state.md R37), and the comparison that
sets CRC_MATCH (R30). -/

namespace Sys2Proof.Machine

/-- STATUS[1:0] (R37). -/
def TxPhase.code (p : TxPhase) : BitVec 2 :=
  match p with
  | .idle => 0
  | .data => 1

/-- STATUS[4:2] (R37). -/
def RxPhase.code (p : RxPhase) : BitVec 3 :=
  match p with
  | .idle => 0
  | .data => 1
  | .esc => 2
  | .done => 3
  | .fail => 4

/-- STATUS[13:12] (R31, R37). -/
def RxErr.code (e : RxErr) : BitVec 2 :=
  match e with
  | .none => 0
  | .noTerminator => 1
  | .shortFrame => 2

/-- STATUS[11:8] (R32, R37). -/
def CmdResult.code (c : CmdResult) : BitVec 4 :=
  match c with
  | .ok => 0
  | .illegal => 1
  | .sequence => 2
  | .full => 3

/-- STATUS[7:6], RX_HCNT (R37). -/
def holdCount (s : State) : BitVec 2 := BitVec.ofNat 2 s.rxHold.length

/-- The comparison of R30 and R127: the received checksum against the complement of the accumulator. -/
def fcsMatches (fcs acc : Half) : Bool := fcs == ~~~acc

/-- The STATUS register, RX_ERR down to TX_PHASE, zero above (R37). -/
def statusWord (s : State) : Word :=
  0#18 ++ s.rxErr.code ++ s.cmdResult.code ++ holdCount s ++ BitVec.ofBool s.crcMatch ++ s.rxPhase.code
    ++ s.txPhase.code

end Sys2Proof.Machine
end

