-- ==== Sys2Proof/Machine/Operands.lean ====
section
/-! DEFINITION. The register window: the eight registers, their offsets (10_state.md R35), the layouts of the words they
read (R38 to R43), the byte lanes (20_memory.md R60), and which register an access names (R52). -/

namespace Sys2Proof.Machine

/-- The eight registers of R35. -/
inductive Reg where
  | cmd
  | status
  | crc
  | txout
  | rxout
  | txcount
  | rxcount
  | rxcrc
  deriving DecidableEq, Repr

/-- The offset of a register from BASE (R35). -/
def Reg.offset (r : Reg) : Nat :=
  match r with
  | .cmd => 0x00
  | .status => 0x04
  | .crc => 0x08
  | .txout => 0x0C
  | .rxout => 0x10
  | .txcount => 0x14
  | .rxcount => 0x18
  | .rxcrc => 0x1C

/-- The register at an offset of the window; an offset that is no multiple of 4 names none (R35, R52). -/
def regAt (offset : Nat) : Option Reg :=
  match offset with
  | 0x00 => some .cmd
  | 0x04 => some .status
  | 0x08 => some .crc
  | 0x0C => some .txout
  | 0x10 => some .rxout
  | 0x14 => some .txcount
  | 0x18 => some .rxcount
  | 0x1C => some .rxcrc
  | _ => none

/-- A register of two halves, `high:low` (R38, R41 to R43). -/
def halves (high low : Half) : Word := high ++ low

/-- CRC: bits 31:16 = ~G, bits 15:0 = G (R38). -/
def crcWord (s : State) : Word := halves (crcFinal s.g) s.g

/-- TXCOUNT: bits 31:16 = TX_LEN, bits 15:0 = len(TX_FIFO) (R41). -/
def txCountWord (s : State) : Word := halves s.txLen (BitVec.ofNat 16 s.txFifo.length)

/-- RXCOUNT: bits 31:16 = RX_LEN, bits 15:0 = len(RX_FIFO) (R42). -/
def rxCountWord (s : State) : Word := halves s.rxLen (BitVec.ofNat 16 s.rxFifo.length)

/-- RXCRC: bits 31:16 = ~RX_ACC, bits 15:0 = RX_FCS (R43). -/
def rxCrcWord (s : State) : Word := halves (~~~s.rxAcc) s.rxFcs

/-- TXOUT and RXOUT with a byte: VALID in bit 8 (R39, R40, R55). -/
def validWord (b : Byte) : Word := b.setWidth 32 ||| 0x00000100

/-- Byte lane j of a register holds bits 8j+7:8j (R60). -/
def laneOf (v : Word) (j : Fin 4) : Byte := v.extractLsb' (8 * j.val) 8

/-- The word whose byte lanes 0 to 3 are given (R60). -/
def wordOfLanes (b0 b1 b2 b3 : Byte) : Word := b3 ++ b2 ++ b1 ++ b0

/-- The access is to the window: it touches one of its 0x20 bytes (R50, R51 `sel`; DEDUCED for an access that only
reaches into the window, log 7). -/
def touchesWindow (p : Params) (a : Access) : Bool :=
  decide (a.addr < p.base + Config.windowSize) && decide (p.base < a.addr + max a.size 1)

/-- The register an accepted access names: 32 bits wide, all four lanes, at BASE + 4k, k in 0..7 (R52). -/
def acceptedReg (p : Params) (a : Access) : Option Reg :=
  if a.size = 4 ∧ a.lanes = 0xF ∧ p.base ≤ a.addr then regAt (a.addr - p.base) else none

/-- `MemRead(BASE + offset(reg), 4)` (R80). -/
def readAccess (p : Params) (r : Reg) : Access :=
  { addr := p.base + r.offset, size := 4, lanes := 0xF, direction := .read }

/-- `MemWrite(BASE + offset(reg), 4, v)` (R80). -/
def writeAccess (p : Params) (r : Reg) (v : Word) : Access :=
  { addr := p.base + r.offset, size := 4, lanes := 0xF, direction := .write v }

end Sys2Proof.Machine
end

