-- ==== Sys2Proof/Machine/Ops.lean ====
section
/-! DEFINITION. The named operations the commands and the register reads are written over: rejection and completion
(60_exceptions.md R150, R151), the FIFOs (00_scope.md R10, 20_memory.md R55), reset_state (70_reset_and_hazards.md R170),
and the decoder's internal steps (42_decoder.md R123, R126, R127).

The block takes no exception: it has no trap and no trap return (R157, R158). What a command does when it is not carried
out is `reject`, one operation for every command and every code. -/

namespace Sys2Proof.Machine

/-- `CMD_RESULT <- code`, and nothing else. -/
def setResult (c : CmdResult) (s : State) : State := { s with cmdResult := c }

/-- R150, `reject(code)`: the command's only effect is CMD_RESULT. -/
def reject (c : CmdResult) (s : State) : Result := .next (setResult c s)

/-- R151: a command that is not rejected ends with CMD_RESULT = OK. -/
def complete (s : State) : Result := .next (setResult .ok s)

/-- `free_tx` (R10). -/
def freeTx (s : State) : Nat := s.params.txCap - s.txFifo.length

/-- `push_tx(e)` (R10). -/
def pushTx (e : List Byte) (s : State) : State := { s with txFifo := s.txFifo ++ e }

/-- `push_rx(b)` (R10). -/
def pushRx (b : Byte) (s : State) : State := { s with rxFifo := s.rxFifo ++ [b] }

/-- R55, `read_pop(TX_FIFO)`: the word read and the state after the pop. -/
def popTx (s : State) : Word × State :=
  match s.txFifo with
  | [] => (0, s)
  | b :: rest => (validWord b, { s with txFifo := rest })

/-- R55, `read_pop(RX_FIFO)`. -/
def popRx (s : State) : Word × State :=
  match s.rxFifo with
  | [] => (0, s)
  | b :: rest => (validWord b, { s with rxFifo := rest })

/-- R170, `reset_state()`: every state element to its reset value. The pin, the parameters and the host's side are no
elements of the block (R45). -/
def resetState (s : State) : State :=
  { s with
    g := 0xFFFF
    txPhase := .idle
    txFifo := []
    txLen := 0
    rxPhase := .idle
    rxHold := []
    rxFifo := []
    rxLen := 0
    rxAcc := 0xFFFF
    rxFcs := 0x0000
    crcMatch := false
    rxErr := .none
    cmdResult := .ok }

/-- R126, `fail_rx(code)`: the frame ends as failed. RX_FIFO keeps its bytes (D38). -/
def failRx (e : RxErr) (s : State) : State :=
  { s with rxPhase := .fail, rxErr := e, rxHold := [], crcMatch := false }

/-- R123, the commit of the oldest held byte c, with h held behind it. -/
def commitHeld (c : Byte) (h : List Byte) (s : State) : State :=
  { pushRx c s with rxHold := h, rxAcc := crcStep s.rxAcc c, rxLen := s.rxLen + 1 }

/-- R123, `rx_take(x)`: the state with x in the delay line, or none where a held byte must be committed and RX_FIFO is
full, for which R123 rejects with FULL before anything has changed. A delay line of other than two bytes commits
nothing, as R123's pseudocode reads (log 9). -/
def rxTake (x : Byte) (s : State) : Option State :=
  match s.rxHold with
  | [c, h] =>
    if s.rxFifo.length = s.params.rxCap then none else some { commitHeld c [h] s with rxHold := [h, x] }
  | held => some { s with rxHold := held ++ [x] }

/-- R127, `rx_terminate()`: the first unescaped 0x7E. -/
def rxTerminate (s : State) : State :=
  match s.rxHold with
  | lo :: hi :: _ =>
    { s with
      rxFcs := halfOfBytes lo hi
      crcMatch := fcsMatches (halfOfBytes lo hi) s.rxAcc
      rxHold := []
      rxPhase := .done }
  | _ => failRx .shortFrame s

/-- The value of a read is appended to what the program has observed (R7). -/
def observe (v : Word) (s : State) : State := { s with observed := s.observed ++ [v] }

/-- R53 to R57: the word an accepted read of a register returns, and the state after it. -/
def readReg (r : Reg) (s : State) : Word × State :=
  match r with
  | .cmd => (0, s)
  | .status => (statusWord s, s)
  | .crc => (crcWord s, s)
  | .txout => popTx s
  | .rxout => popRx s
  | .txcount => (txCountWord s, s)
  | .rxcount => (rxCountWord s, s)
  | .rxcrc => (rxCrcWord s, s)

end Sys2Proof.Machine
end

