-- ==== Sys2Proof/Machine/Control.lean ====
section
/-! DEFINITION. The control commands (43_control.md R140, R141). -/

namespace Sys2Proof.Machine

/-- NOP (R140): CMD_RESULT goes back to OK and nothing else changes. -/
def execNop (s : State) : Result := complete s

/-- SOFT_RESET (R141): accepted in every phase; CMD_RESULT is OK after it, as its reset value. -/
def execSoftReset (s : State) : Result := .next (resetState s)

end Sys2Proof.Machine
end

