-- ==== Sys2Proof/Machine/CrcGenerator.lean ====
section
/-! DEFINITION. The CRC generator's commands (40_crc.md R92, R93). -/

namespace Sys2Proof.Machine

/-- CRC_INIT (R92): rejected while an encoder frame is open, since the encoder owns G (D16, D27). -/
def execCrcInit (s : State) : Result :=
  match s.txPhase with
  | .data => reject .sequence s
  | .idle => complete { s with g := Config.crcInitValue }

/-- CRC_BYTE d (R93): every d is accepted; the generator does no escaping. -/
def execCrcByte (d : Byte) (s : State) : Result :=
  match s.txPhase with
  | .data => reject .sequence s
  | .idle => complete { s with g := crcStep s.g d }

end Sys2Proof.Machine
end

