-- ==== Sys2Proof/Machine/FrameDecoder.lean ====
section
/-! DEFINITION. The frame decoder's commands (42_decoder.md R122, R124, R125). -/

namespace Sys2Proof.Machine

/-- RX_START (R122): accepted in every phase; everything of the previous frame is discarded. -/
def execRxStart (s : State) : Result :=
  complete
    { s with
      rxPhase := .data
      rxHold := []
      rxFifo := []
      rxLen := 0
      rxAcc := Config.crcInitValue
      rxFcs := 0x0000
      crcMatch := false
      rxErr := .none }

/-- A decoded byte x goes into the delay line and the decoder is in DATA after it (R123, R124). -/
def takeDecoded (x : Byte) (s : State) : Result :=
  match rxTake x s with
  | none => reject .full s
  | some t => complete { t with rxPhase := .data }

/-- RX_BYTE d (R124): in ESC every d is unescaped, 0x7D and 0x7E included. -/
def execRxByte (d : Byte) (s : State) : Result :=
  match s.rxPhase with
  | .idle => reject .sequence s
  | .done => complete s
  | .fail => complete s
  | .data =>
    if d = Config.flag then complete (rxTerminate s)
    else if d = Config.esc then complete { s with rxPhase := .esc }
    else takeDecoded d s
  | .esc => takeDecoded (d ^^^ Config.xmask) s

/-- RX_END (R125): the input is exhausted. -/
def execRxEnd (s : State) : Result :=
  match s.rxPhase with
  | .idle => reject .sequence s
  | .data => complete (failRx .noTerminator s)
  | .esc => complete (failRx .noTerminator s)
  | .done => complete s
  | .fail => complete s

end Sys2Proof.Machine
end

