-- ==== Sys2Proof/Machine/FrameEncoder.lean ====
section
/-! DEFINITION. The frame encoder's commands (41_encoder.md R102, R103, R104). -/

namespace Sys2Proof.Machine

/-- TX_START (R102): TX_FIFO is not flushed, so frames queue back to back (D18). -/
def execTxStart (s : State) : Result :=
  match s.txPhase with
  | .data => reject .sequence s
  | .idle => complete { s with g := Config.crcInitValue, txLen := 0, txPhase := .data }

/-- TX_BYTE d (R103): both bytes of an escape pair are pushed or neither; the checksum is over d itself. -/
def execTxByte (d : Byte) (s : State) : Result :=
  match s.txPhase with
  | .idle => reject .sequence s
  | .data =>
    if freeTx s < (escapeByte d).length then reject .full s
    else complete { pushTx (escapeByte d) s with g := crcStep s.g d, txLen := s.txLen + 1 }

/-- The bytes TX_END pushes: the checksum, low byte first, escaped, and the terminator (R104). -/
def frameTail (g : Half) : List Byte :=
  escapeByte (lowByte (crcFinal g)) ++ escapeByte (highByte (crcFinal g)) ++ [Config.flag]

/-- TX_END (R104): G and TX_LEN are unchanged. -/
def execTxEnd (s : State) : Result :=
  match s.txPhase with
  | .idle => reject .sequence s
  | .data =>
    if freeTx s < (frameTail s.g).length then reject .full s
    else complete { pushTx (frameTail s.g) s with txPhase := .idle }

end Sys2Proof.Machine
end

