-- ==== Sys2Proof/Machine/Dispatch.lean ====
section
/-! DEFINITION. One arm per command of Instr: what a decoded command does (20_memory.md R53). -/

namespace Sys2Proof.Machine

def exec (i : Instr) (s : State) : Host.Outcome State Fault Refusal :=
  match i with
  -- 43_control.md
  | .nop => Sys2Proof.Machine.execNop s
  -- 40_crc.md
  | .crcInit => Sys2Proof.Machine.execCrcInit s
  | .crcByte d => Sys2Proof.Machine.execCrcByte d s
  -- 41_encoder.md
  | .txStart => Sys2Proof.Machine.execTxStart s
  | .txByte d => Sys2Proof.Machine.execTxByte d s
  | .txEnd => Sys2Proof.Machine.execTxEnd s
  -- 42_decoder.md
  | .rxStart => Sys2Proof.Machine.execRxStart s
  | .rxByte d => Sys2Proof.Machine.execRxByte d s
  | .rxEnd => Sys2Proof.Machine.execRxEnd s
  -- 43_control.md
  | .softReset => Sys2Proof.Machine.execSoftReset s

end Sys2Proof.Machine
end

