-- ==== Sys2Proof/Machine/Bus.lean ====
section
/-! DEFINITION. What reaches the block from outside: register reads and writes (20_memory.md R52 to R58), the drains of
30_encoding.md R81, the reset pin (70_reset_and_hazards.md R170, R172), and a second master (60_exceptions.md R163). -/

namespace Sys2Proof.Machine

/-- R53, R72: a word written to CMD is decoded and carried out; an illegal word is rejected with ILLEGAL. -/
def writeCommand (w : Word) (s : State) : Result :=
  match decodeWord w with
  | .ok i => exec i s
  | .error _ => reject .illegal s

/-- R53, R54: a write to CMD is a command; a write to any other register is ignored. -/
def writeReg (r : Reg) (v : Word) (s : State) : Result :=
  match r with
  | .cmd => writeCommand v s
  | .status => .next s
  | .crc => .next s
  | .txout => .next s
  | .rxout => .next s
  | .txcount => .next s
  | .rxcount => .next s
  | .rxcrc => .next s

/-- An accepted access (R52): a read is observed by the program, a write is not. -/
def registerAccess (r : Reg) (d : Direction) (s : State) : Result :=
  match d with
  | .read => .next (observe (readReg r s).1 (readReg r s).2)
  | .write v => writeReg r v s

/-- One access by the host. To the window, while rst_n is high: accepted, or a bus error, which changes no state and is
a fault of the host program (R52, R154). -/
def hostAccess (a : Access) (s : State) : Result :=
  if touchesWindow s.params a then
    if s.rstN then
      match acceptedReg s.params a with
      | some r => registerAccess r a.direction s
      | none => .fault .busError
    else .refused .accessDuringReset
  else .refused .outsideWindow

/-- DRAIN_TX: read TXOUT, and go on while a byte was popped (R55, R81). -/
def drainTxStep (s : State) : Result :=
  match s.txFifo with
  | [] => hostAccess (readAccess s.params .txout) s
  | _ :: _ => hostAccess (readAccess s.params .txout) { s with pending := .drainTx :: s.pending }

/-- DRAIN_RX: read RXOUT, and go on while a byte was popped (R55, R81). -/
def drainRxStep (s : State) : Result :=
  match s.rxFifo with
  | [] => hostAccess (readAccess s.params .rxout) s
  | _ :: _ => hostAccess (readAccess s.params .rxout) { s with pending := .drainRx :: s.pending }

/-- One event, in a state whose `pending` already stands behind it. -/
def runEvent (e : HostEvent) (s : State) : Result :=
  match e with
  | .access a => hostAccess a s
  | .drainTx => drainTxStep s
  | .drainRx => drainRxStep s
  | .resetLow => .next { resetState s with rstN := false }
  | .resetHigh => .next { s with rstN := true }
  | .foreign _ => .refused .secondMaster

/-- The host's next event is taken from its program; between accesses the block does nothing and keeps all state
(R6, R64, R165; log 3). -/
def nextEvent (s : State) : Result :=
  match s.pending with
  | [] => .next s
  | e :: rest => runEvent e { s with pending := rest }

/-- The event that writes a command word to CMD. -/
def commandEvent (p : Params) (w : Word) : HostEvent := .access (writeAccess p .cmd w)

end Sys2Proof.Machine
end

