-- ==== Sys2Proof/Machine/Step.lean ====
section
/-! DEFINITION. One step of the machine: one access of its host (00_scope.md R6, 70_reset_and_hazards.md R180). -/

namespace Sys2Proof.Machine

/-- One host access is one atomic transition (R6, R58, R180). -/
def step (s : State) : Host.Outcome State Fault Refusal := nextEvent s

/-- s with a command word as the next thing its host writes to CMD, rst_n released so that the host may (log 2). -/
def State.withFetchWord (s : State) (nbits w : Nat) : State :=
  { s with
    rstN := true
    pending := commandEvent s.params (BitVec.ofNat 32 (w % 2 ^ nbits)) :: s.pending }

end Sys2Proof.Machine
end

