-- ==== Sys2Proof/Machine/Program.lean ====
section
/-! DEFINITION. The host's programs: the lines of 30_encoding.md R80, the pseudo-instructions of R81, and their assembly
into the events the block receives. The block never sees a line. -/

namespace Sys2Proof.Machine

/-- The mnemonics that take no byte (R71, R80). -/
inductive PlainMnemonic where
  | nop
  | crcInit
  | txStart
  | txEnd
  | rxStart
  | rxEnd
  | softReset
  deriving DecidableEq, Repr

/-- The mnemonics that take a byte (R71, R80). -/
inductive ByteMnemonic where
  | crcByte
  | txByte
  | rxByte
  deriving DecidableEq, Repr

/-- A line of a program (R80, R81). Numbers are as written, so a line can be wrong. -/
inductive Line where
  /-- `W <reg>, <value32>` -/
  | write (r : Reg) (v : Nat)
  /-- `R <reg>` -/
  | read (r : Reg)
  /-- `R <reg> -> <expected>`, a read with the value the rules give. -/
  | readExpecting (r : Reg) (v : Nat)
  /-- `<MNEMONIC>` -/
  | plain (m : PlainMnemonic)
  /-- `<MNEMONIC> <byte>` -/
  | byte (m : ByteMnemonic) (b : Nat)
  /-- `; comment` -/
  | comment (text : String)
  /-- `CRC16 b0, ..., bn-1`, without the read of its result (log 15) -/
  | crc16 (bs : List Nat)
  /-- `ENCODE b0, ..., bn-1` -/
  | encode (bs : List Nat)
  /-- `DECODE r0, ..., rm-1` -/
  | decode (rs : List Nat)
  /-- `DRAIN_TX` -/
  | drainTx
  /-- `DRAIN_RX` -/
  | drainRx
  deriving DecidableEq, Repr

/-- A DATA byte outside 0 to 255 is an assembly error (R81). -/
def bytesWellFormed (bs : List Nat) : Bool := bs.all (fun b => decide (b < 256))

/-- Values are 32 bits and bytes 8 bits (R80, R81). -/
def Line.wellFormed (l : Line) : Bool :=
  match l with
  | .write _ v => decide (v < 2 ^ 32)
  | .read _ => true
  | .readExpecting _ v => decide (v < 2 ^ 32)
  | .plain _ => true
  | .byte _ b => decide (b < 256)
  | .comment _ => true
  | .crc16 bs => bytesWellFormed bs
  | .encode bs => bytesWellFormed bs
  | .decode rs => bytesWellFormed rs
  | .drainTx => true
  | .drainRx => true

/-- The command of a mnemonic without a byte. -/
def PlainMnemonic.command (m : PlainMnemonic) : Instr :=
  match m with
  | .nop => .nop
  | .crcInit => .crcInit
  | .txStart => .txStart
  | .txEnd => .txEnd
  | .rxStart => .rxStart
  | .rxEnd => .rxEnd
  | .softReset => .softReset

/-- The command of a mnemonic and its byte. -/
def ByteMnemonic.command (m : ByteMnemonic) (b : Byte) : Instr :=
  match m with
  | .crcByte => .crcByte b
  | .txByte => .txByte b
  | .rxByte => .rxByte b

/-- The commands of `CRC16` (R81): CRC_INIT and the CRC_BYTEs. DESIGN CHOICE (log 15): the read `R CRC` that gives the
result is a line of its own and no part of the expansion. -/
def crc16Commands (bs : List Byte) : List Instr := .crcInit :: bs.map .crcByte

/-- The commands of `ENCODE` (R81). -/
def encodeCommands (bs : List Byte) : List Instr := .txStart :: bs.map .txByte ++ [.txEnd]

/-- The commands of `DECODE` (R81). -/
def decodeCommands (rs : List Byte) : List Instr := .rxStart :: rs.map .rxByte ++ [.rxEnd]

/-- A command line is exactly one write of the command's word to CMD (R80). -/
def commandEvents (p : Params) (is : List Instr) : List HostEvent := is.map (fun i => commandEvent p (Sys2Proof.encode i))

/-- The bytes a line names. -/
def toBytes (bs : List Nat) : List Byte := bs.map (BitVec.ofNat 8)

/-- The events of a well-formed line. -/
def Line.events (p : Params) (l : Line) : List HostEvent :=
  match l with
  | .write r v => [.access (writeAccess p r (BitVec.ofNat 32 v))]
  | .read r => [.access (readAccess p r)]
  | .readExpecting r _ => [.access (readAccess p r)]
  | .plain m => commandEvents p [m.command]
  | .byte m b => commandEvents p [m.command (BitVec.ofNat 8 b)]
  | .comment _ => []
  | .crc16 bs => commandEvents p (crc16Commands (toBytes bs))
  | .encode bs => commandEvents p (encodeCommands (toBytes bs))
  | .decode rs => commandEvents p (decodeCommands (toBytes rs))
  | .drainTx => [.drainTx]
  | .drainRx => [.drainRx]

/-- A program's events, or none where a line is an assembly error (R80, R81). -/
def assemble (p : Params) (ls : List Line) : Option (List HostEvent) :=
  if ls.all Line.wellFormed then some (ls.flatMap (Line.events p)) else none

/-- The host goes on with these events after what it has still to do. -/
def State.withProgram (s : State) (es : List HostEvent) : State := { s with pending := s.pending ++ es }

end Sys2Proof.Machine
end

