-- ==== Sys2Proof/WellFormed.lean ====
section
/-! DEFINITION. The checks on what the model is given: a command, a command word, the parameters.
The checks on the lines of a program are in Machine/Program.lean, beside their type. -/

namespace Sys2Proof

/-- Every command with a b8 operand is well formed: R73 takes DATA unchanged and the rules R93, R103 and R124
accept every d from 0x00 to 0xFF. A DATA byte outside that range is no command but an assembly error (R81), and is
checked where a program's line is assembled. -/
def Instr.wellFormed (i : Instr) : Bool :=
  match i with
  | .nop => true
  | .crcInit => true
  | .crcByte _ => true
  | .txStart => true
  | .txByte _ => true
  | .txEnd => true
  | .rxStart => true
  | .rxByte _ => true
  | .rxEnd => true
  | .softReset => true

/-- The opcodes of R71 whose DATA must be 0. -/
def datalessOpcodes : List Byte := [0x00, 0x01, 0x10, 0x12, 0x20, 0x22, 0xFF]

/-- The opcodes of R71 whose DATA is a data byte. -/
def byteOpcodes : List Byte := [0x02, 0x11, 0x21]

/-- A legal command word (R70, R74): RSV zero, OP in the map, DATA zero where it must be. -/
def wordWellFormed (w : Word) : Bool :=
  w.extractLsb' 16 16 == 0
    && ((datalessOpcodes.contains (w.extractLsb' 8 8) && w.extractLsb' 0 8 == 0)
      || byteOpcodes.contains (w.extractLsb' 8 8))

/-- The ranges of R8: BASE a multiple of 0x20, 5 <= TX_CAP <= 65535, 1 <= RX_CAP <= 65535. -/
abbrev Params.WellFormed (p : Params) : Prop :=
  p.base % Config.windowSize = 0 ∧ (5 ≤ p.txCap ∧ p.txCap ≤ 65535) ∧ (1 ≤ p.rxCap ∧ p.rxCap ≤ 65535)

end Sys2Proof
end

