-- ==== Sys2Proof/Safety.lean ====
section
/-! DEFINITION. The terms the claims use: the invariant of 10_state.md R33, a run of commands none of which is rejected
(R94, R105, R128), and a host that reads bytes out and writes a FULL command again (R103, R124, R156). -/

namespace Sys2Proof.Machine

/-- Every element of the block has its reset value (R170). -/
structure BlockReset (s : State) : Prop where
  g : s.g = 0xFFFF
  txPhase : s.txPhase = .idle
  txFifo : s.txFifo = []
  txLen : s.txLen = 0
  rxPhase : s.rxPhase = .idle
  rxHold : s.rxHold = []
  rxFifo : s.rxFifo = []
  rxLen : s.rxLen = 0
  rxAcc : s.rxAcc = 0xFFFF
  rxFcs : s.rxFcs = 0
  crcMatch : s.crcMatch = false
  rxErr : s.rxErr = .none
  cmdResult : s.cmdResult = .ok

/-- The invariants of R33, with what R29 and R30 say beside them: RX_FCS is written only on entering DONE, and
CRC_MATCH is exactly R30's comparison. -/
structure Inv (s : State) : Prop where
  txFifo_fits : s.txFifo.length ≤ s.params.txCap
  rxFifo_fits : s.rxFifo.length ≤ s.params.rxCap
  rxHold_fits : s.rxHold.length ≤ 2
  rxHold_empty : s.rxPhase = .idle ∨ s.rxPhase = .done ∨ s.rxPhase = .fail → s.rxHold = []
  rxErr_iff : s.rxErr ≠ .none ↔ s.rxPhase = .fail
  crcMatch_iff : s.crcMatch = true ↔ s.rxPhase = .done ∧ s.rxFcs = ~~~s.rxAcc
  rxFcs_done : s.rxPhase ≠ .done → s.rxFcs = 0
  rx_idle : s.rxPhase = .idle → s.rxFifo = [] ∧ s.rxLen = 0 ∧ s.rxAcc = 0xFFFF ∧ s.rxFcs = 0

/-- SEQUENCE's causes, as R152 lists them. -/
def OutOfSequence (i : Instr) (s : State) : Prop :=
  match i with
  | .nop => False
  | .crcInit => s.txPhase = .data
  | .crcByte _ => s.txPhase = .data
  | .txStart => s.txPhase = .data
  | .txByte _ => s.txPhase = .idle
  | .txEnd => s.txPhase = .idle
  | .rxStart => False
  | .rxByte _ => s.rxPhase = .idle
  | .rxEnd => s.rxPhase = .idle
  | .softReset => False

/-- How many bytes a byte takes on the wire (R100). -/
def wireLength (b : Byte) : Nat := if b = 0x7D ∨ b = 0x7E then 2 else 1

/-- FULL's causes, as R152 lists them: the FIFO the command must push to has too few free places. -/
def NoRoom (i : Instr) (s : State) : Prop :=
  match i with
  | .nop => False
  | .crcInit => False
  | .crcByte _ => False
  | .txStart => False
  | .txByte d => s.params.txCap - s.txFifo.length < wireLength d
  | .txEnd =>
    s.params.txCap - s.txFifo.length
      < wireLength ((~~~s.g).extractLsb' 0 8) + wireLength ((~~~s.g).extractLsb' 8 8) + 1
  | .rxStart => False
  | .rxByte d =>
    s.rxHold.length = 2 ∧ s.rxFifo.length = s.params.rxCap
      ∧ (s.rxPhase = .esc ∨ s.rxPhase = .data ∧ d ≠ 0x7D ∧ d ≠ 0x7E)
  | .rxEnd => False
  | .softReset => False

/-- The word, written to CMD, is rejected with ILLEGAL in every state and has no other effect (R74, R150). -/
def RejectedAsIllegal (w : Word) : Prop := ∀ s : State, writeReg .cmd w s = .next { s with cmdResult := .illegal }

/-- The words of a command whose DATA must be 0: its one word is decoded, and every other word with its opcode is
ILLEGAL (R72). -/
def DatalessEncoding (op : Byte) (i : Instr) : Prop :=
  decodeWord (0#16 ++ op ++ 0#8) = .ok i
    ∧ ∀ (rsv : Half) (d : Byte), rsv ≠ 0 ∨ d ≠ 0 → RejectedAsIllegal (rsv ++ op ++ d)

/-- The words of a command with a data byte: every byte is decoded, and a nonzero RSV is ILLEGAL (R72, R73). -/
def ByteEncoding (op : Byte) (i : Byte → Instr) : Prop :=
  (∀ d : Byte, decodeWord (0#16 ++ op ++ d) = .ok (i d))
    ∧ ∀ (rsv : Half) (d : Byte), rsv ≠ 0 → RejectedAsIllegal (rsv ++ op ++ d)

/-- The state after commands written one after the other, if none is rejected. -/
def acceptedRun (is : List Instr) (s : State) : Option State :=
  match is with
  | [] => some s
  | i :: rest =>
    match exec i s with
    | .next t => if t.cmdResult = .ok then acceptedRun rest t else none
    | .fault _ => none
    | .refused _ => none

/-- A host writes commands in order and, at any point, reads bytes out of the port (TXOUT or RXOUT); a command rejected
with FULL is written again. `Feeds port is s bs t`: from s, all of `is` have been carried out, the bytes bs were read
with VALID = 1 in that order, and the state is t (R105, R128). -/
inductive Feeds (port : Reg) : List Instr → State → List Byte → State → Prop where
  | done (s : State) : Feeds port [] s [] s
  | accepted {i is s u bs t} (hrun : exec i s = .next u) (hok : u.cmdResult = .ok) (hrest : Feeds port is u bs t) :
      Feeds port (i :: is) s bs t
  | retried {i is s u bs t} (hrun : exec i s = .next u) (hfull : u.cmdResult = .full)
      (hrest : Feeds port (i :: is) u bs t) : Feeds port (i :: is) s bs t
  | popped {is s b u bs t} (hread : readReg port s = (validWord b, u)) (hrest : Feeds port is u bs t) :
      Feeds port is s (b :: bs) t

end Sys2Proof.Machine
end

