-- ==== Sys2Proof/Certificates/Slice0/Obligations.lean ====
section
/-! DEFINITION. The statements for the provers. R<n> are the spec's rules, log <n> is notes/assumptions/<n>.md. A state is
written out whole wherever a statement gives one, so that what it does not name is unchanged. -/

open Sys2Proof Sys2Proof.Machine

/-! ## Reset -/

/-- R170: rst_n driven low and SOFT_RESET both give every element of the block its reset value, and the machine starts
from those values. Nothing else of the state changes but the pin itself. The pin as a field and its event are the
model's form, DEDUCED (log 5). -/
def Obligations.BothResetSourcesGiveResetValues : Prop :=
  BlockReset State.reset
    ∧ (∀ s : State, ∃ t, exec .softReset s = .next t ∧ BlockReset t ∧ t.rstN = s.rstN ∧ t.params = s.params
        ∧ t.pending = s.pending ∧ t.observed = s.observed)
    ∧ ∀ (s : State) (rest : List HostEvent), s.pending = .resetLow :: rest →
        ∃ t, step s = .next t ∧ BlockReset t ∧ t.rstN = false ∧ t.params = s.params ∧ t.pending = rest
          ∧ t.observed = s.observed

/-- R171: what a read of each register returns after reset; the read changes no element of the block. -/
def Obligations.RegistersReadResetValues : Prop :=
  ∀ r : Reg,
    step { State.reset with pending := [.access (readAccess State.reset.params r)] }
      = .next { State.reset with observed := [if r = .crc then 0x0000FFFF else 0x00000000] }

/-! ## Encoding -/

/-- R71: the opcode map, complete: the ten commands, the DATA that must be 0, and the 246 reserved opcodes. -/
def Obligations.OpcodeMapDecodes : Prop :=
  decodeWord 0x00000000 = .ok .nop
    ∧ decodeWord 0x00000100 = .ok .crcInit
    ∧ (∀ d : Byte, decodeWord (0x000002#24 ++ d) = .ok (.crcByte d))
    ∧ decodeWord 0x00001000 = .ok .txStart
    ∧ (∀ d : Byte, decodeWord (0x000011#24 ++ d) = .ok (.txByte d))
    ∧ decodeWord 0x00001200 = .ok .txEnd
    ∧ decodeWord 0x00002000 = .ok .rxStart
    ∧ (∀ d : Byte, decodeWord (0x000021#24 ++ d) = .ok (.rxByte d))
    ∧ decodeWord 0x00002200 = .ok .rxEnd
    ∧ decodeWord 0x0000FF00 = .ok .softReset
    ∧ (∀ op d : Byte, op ∈ [0x00, 0x01, 0x10, 0x12, 0x20, 0x22, 0xFF] → d ≠ 0 →
        decodeWord (0#16 ++ op ++ d) = .error .nonzeroData)
    ∧ ∀ op d : Byte, op ∉ [0x00, 0x01, 0x02, 0x10, 0x11, 0x12, 0x20, 0x21, 0x22, 0xFF] →
        decodeWord (0#16 ++ op ++ d) = .error .reservedOpcode

/-- Decoding and encoding agree in both directions: every command comes back from its word, and a word that decodes to
a command is that command's word, so no bit is dropped and no command has two words (R70, R71, R73, R75). -/
def Obligations.DecodeAgreesWithEncode : Prop :=
  (∀ i : Instr, i.wellFormed = true → decodeWord (encode i) = .ok i)
    ∧ ∀ (w : Word) (i : Instr), decodeWord w = .ok i → i.wellFormed = true ∧ encode i = w

/-- R76: exactly 775 words are legal, 7 of data-less commands and 3 x 256 of commands with a data byte; every other
word is ILLEGAL. -/
def Obligations.LegalWordsNumber775 : Prop :=
  ∃ plain byte : List Word,
    plain.length = 7 ∧ byte.length = 3 * 256 ∧ (plain ++ byte).length = 775 ∧ (plain ++ byte).Nodup
      ∧ (∀ w, w ∈ plain ↔ (∃ i, decodeWord w = .ok i) ∧ opField w ∈ datalessOpcodes)
      ∧ (∀ w, w ∈ byte ↔ (∃ i, decodeWord w = .ok i) ∧ opField w ∈ byteOpcodes)
      ∧ ∀ w, w ∉ plain ++ byte → RejectedAsIllegal w

/-- R74, through a step: a nonzero RSV with any OP, an OP not in the map, and a nonzero DATA with an OP whose DATA must
be 0 change CMD_RESULT and nothing else. -/
def Obligations.IllegalWordChangesOnlyResult : Prop :=
  ∀ (s : State) (rest : List HostEvent) (rsv : Half) (op d : Byte),
    s.rstN = true →
    s.pending = .access (writeAccess s.params .cmd (rsv ++ op ++ d)) :: rest →
    (rsv ≠ 0 ∨ op ∉ [0x00, 0x01, 0x02, 0x10, 0x11, 0x12, 0x20, 0x21, 0x22, 0xFF]
      ∨ (op ∈ [0x00, 0x01, 0x10, 0x12, 0x20, 0x22, 0xFF] ∧ d ≠ 0)) →
    step s = .next { s with pending := rest, cmdResult := .illegal }

/-- R53, R72: a step whose access writes a legal word to CMD is exec of the decoded command, in the state whose program
has moved past that access. -/
def Obligations.StepRunsDecodedCommand : Prop :=
  ∀ (s : State) (rest : List HostEvent) (w : Word) (i : Instr),
    s.rstN = true → s.pending = .access (writeAccess s.params .cmd w) :: rest → decodeWord w = .ok i →
    step s = exec i { s with pending := rest }

/-- What withFetchWord places is what the next step runs (log 2). -/
def Obligations.FetchedWordRunsNext : Prop :=
  ∀ (s : State) (nbits w : Nat) (i : Instr),
    decodeTableWord nbits w = some i → step (s.withFetchWord nbits w) = exec i { s with rstN := true }

/-! ## The commands: encoding, every outcome, and the whole next state -/

/-- R140. -/
def Obligations.NopRule : Prop :=
  DatalessEncoding 0x00 .nop ∧ ∀ s : State, exec .nop s = .next { s with cmdResult := .ok }

/-- R92. -/
def Obligations.CrcInitRule : Prop :=
  DatalessEncoding 0x01 .crcInit
    ∧ ∀ s : State,
        (s.txPhase = .idle → exec .crcInit s = .next { s with g := 0xFFFF, cmdResult := .ok })
          ∧ (s.txPhase = .data → exec .crcInit s = .next { s with cmdResult := .sequence })

/-- R93. -/
def Obligations.CrcByteRule : Prop :=
  ByteEncoding 0x02 .crcByte
    ∧ ∀ (s : State) (d : Byte),
        (s.txPhase = .idle → exec (.crcByte d) s = .next { s with g := crcStep s.g d, cmdResult := .ok })
          ∧ (s.txPhase = .data → exec (.crcByte d) s = .next { s with cmdResult := .sequence })

/-- R102. -/
def Obligations.TxStartRule : Prop :=
  DatalessEncoding 0x10 .txStart
    ∧ ∀ s : State,
        (s.txPhase = .idle →
            exec .txStart s = .next { s with g := 0xFFFF, txLen := 0, txPhase := .data, cmdResult := .ok })
          ∧ (s.txPhase = .data → exec .txStart s = .next { s with cmdResult := .sequence })

/-- R103: the escape pair of 0x7D is 7D 5D and that of 0x7E is 7D 5E; every other byte goes out unchanged; FULL when
fewer places are free than the byte needs. -/
def Obligations.TxByteRule : Prop :=
  ByteEncoding 0x11 .txByte
    ∧ ∀ (s : State) (d : Byte) (e : List Byte),
        (d = 0x7D ∧ e = [0x7D, 0x5D] ∨ d = 0x7E ∧ e = [0x7D, 0x5E] ∨ d ≠ 0x7D ∧ d ≠ 0x7E ∧ e = [d]) →
        (s.txPhase = .idle → exec (.txByte d) s = .next { s with cmdResult := .sequence })
          ∧ (s.txPhase = .data → s.params.txCap - s.txFifo.length < e.length →
              exec (.txByte d) s = .next { s with cmdResult := .full })
          ∧ (s.txPhase = .data → e.length ≤ s.params.txCap - s.txFifo.length →
              exec (.txByte d) s
                = .next { s with
                    txFifo := s.txFifo ++ e
                    g := crcStep s.g d
                    txLen := s.txLen + 1
                    cmdResult := .ok })

/-- R104: with the checksum k = ~G, the bytes k & 0xFF and k >> 8 are escaped (R100) and the terminator follows. -/
def Obligations.TxEndRule : Prop :=
  DatalessEncoding 0x12 .txEnd
    ∧ ∀ (s : State) (e : List Byte),
        e = escapeByte ((~~~s.g).extractLsb' 0 8) ++ escapeByte ((~~~s.g).extractLsb' 8 8) ++ [0x7E] →
        (s.txPhase = .idle → exec .txEnd s = .next { s with cmdResult := .sequence })
          ∧ (s.txPhase = .data → s.params.txCap - s.txFifo.length < e.length →
              exec .txEnd s = .next { s with cmdResult := .full })
          ∧ (s.txPhase = .data → e.length ≤ s.params.txCap - s.txFifo.length →
              exec .txEnd s = .next { s with txFifo := s.txFifo ++ e, txPhase := .idle, cmdResult := .ok })

/-- R122. -/
def Obligations.RxStartRule : Prop :=
  DatalessEncoding 0x20 .rxStart
    ∧ ∀ s : State,
        exec .rxStart s
          = .next { s with
              rxPhase := .data
              rxHold := []
              rxFifo := []
              rxLen := 0
              rxAcc := 0xFFFF
              rxFcs := 0
              crcMatch := false
              rxErr := .none
              cmdResult := .ok }

/-- R124, outside a frame and at an escape marker: SEQUENCE in IDLE, ignored in DONE and FAIL, and 0x7D in DATA opens an
escape pair and commits nothing. -/
def Obligations.RxBytePhaseRule : Prop :=
  ByteEncoding 0x21 .rxByte
    ∧ ∀ (s : State) (d : Byte),
        (s.rxPhase = .idle → exec (.rxByte d) s = .next { s with cmdResult := .sequence })
          ∧ (s.rxPhase = .done ∨ s.rxPhase = .fail → exec (.rxByte d) s = .next { s with cmdResult := .ok })
          ∧ (s.rxPhase = .data → d = 0x7D → exec (.rxByte d) s = .next { s with rxPhase := .esc, cmdResult := .ok })

/-- R123, through RX_BYTE: the decoded byte x is d itself in DATA and d ^ 0x20 in ESC. With fewer than two bytes held it
joins the delay line; with two held, c the older, c is committed to the payload, or the command is rejected with FULL
when RX_FIFO is full. -/
def Obligations.RxByteTakesDecodedByte : Prop :=
  ∀ (s : State) (d x : Byte),
    (s.rxPhase = .data ∧ d ≠ 0x7D ∧ d ≠ 0x7E ∧ x = d ∨ s.rxPhase = .esc ∧ x = d ^^^ 0x20) →
    (s.rxHold.length < 2 →
        exec (.rxByte d) s = .next { s with rxHold := s.rxHold ++ [x], rxPhase := .data, cmdResult := .ok })
      ∧ ∀ c h : Byte, s.rxHold = [c, h] →
          (s.rxFifo.length = s.params.rxCap → exec (.rxByte d) s = .next { s with cmdResult := .full })
            ∧ (s.rxFifo.length ≠ s.params.rxCap →
                exec (.rxByte d) s
                  = .next { s with
                      rxHold := [h, x]
                      rxFifo := s.rxFifo ++ [c]
                      rxAcc := crcStep s.rxAcc c
                      rxLen := s.rxLen + 1
                      rxPhase := .data
                      cmdResult := .ok })

/-- R127, through RX_BYTE 0x7E in DATA: fewer than two bytes held is SHORT_FRAME; two held bytes are the received
checksum, low byte first, compared with ~RX_ACC, and the frame is DONE whether they match or not (R130). -/
def Obligations.RxByteTerminatorRule : Prop :=
  ∀ s : State, s.rxPhase = .data →
    (s.rxHold.length < 2 →
        exec (.rxByte 0x7E) s
          = .next { s with
              rxPhase := .fail, rxErr := .shortFrame, rxHold := [], crcMatch := false, cmdResult := .ok })
      ∧ ∀ lo hi : Byte, s.rxHold = [lo, hi] →
          exec (.rxByte 0x7E) s
            = .next { s with
                rxFcs := lo.setWidth 16 ||| (hi.setWidth 16 <<< 8)
                crcMatch := decide (lo.setWidth 16 ||| (hi.setWidth 16 <<< 8) = ~~~s.rxAcc)
                rxHold := []
                rxPhase := .done
                cmdResult := .ok }

/-- R125. -/
def Obligations.RxEndRule : Prop :=
  DatalessEncoding 0x22 .rxEnd
    ∧ ∀ s : State,
        (s.rxPhase = .idle → exec .rxEnd s = .next { s with cmdResult := .sequence })
          ∧ (s.rxPhase = .data ∨ s.rxPhase = .esc →
              exec .rxEnd s
                = .next { s with
                    rxPhase := .fail, rxErr := .noTerminator, rxHold := [], crcMatch := false, cmdResult := .ok })
          ∧ (s.rxPhase = .done ∨ s.rxPhase = .fail → exec .rxEnd s = .next { s with cmdResult := .ok })

/-- R141: SOFT_RESET is carried out in every phase, leaves every element at its reset value, and every register then
reads its reset value. -/
def Obligations.SoftResetRule : Prop :=
  DatalessEncoding 0xFF .softReset
    ∧ ∀ s : State, ∃ t, exec .softReset s = .next t ∧ BlockReset t
        ∧ t.rstN = s.rstN ∧ t.params = s.params ∧ t.pending = s.pending ∧ t.observed = s.observed
        ∧ ∀ r : Reg, (readReg r t).1 = if r = .crc then 0x0000FFFF else 0x00000000

/-! ## Rules over all commands -/

/-- R152, R155: for every word written to CMD in every state, which code is reported: ILLEGAL on the word alone, then
SEQUENCE on the phase, then FULL on the FIFO level, else OK. -/
def Obligations.RejectionCodesAndPriority : Prop :=
  ∀ (w : Word) (s : State), ∃ t, writeReg .cmd w s = .next t
    ∧ (t.cmdResult = .illegal ↔ ¬ ∃ i, decodeWord w = .ok i)
    ∧ (t.cmdResult = .sequence ↔ ∃ i, decodeWord w = .ok i ∧ OutOfSequence i s)
    ∧ (t.cmdResult = .full ↔ ∃ i, decodeWord w = .ok i ∧ ¬ OutOfSequence i s ∧ NoRoom i s)

/-- R150: a command that is rejected changes CMD_RESULT and nothing else. -/
def Obligations.RejectionChangesOnlyResult : Prop :=
  ∀ (w : Word) (s t : State), writeReg .cmd w s = .next t → t.cmdResult ≠ .ok →
    t = { s with cmdResult := t.cmdResult }

/-- R126, R153: a command that makes the decoder fail is RX_END in DATA or ESC, with NO_TERMINATOR, or RX_BYTE 0x7E in
DATA with fewer than two bytes held, with SHORT_FRAME; it completes with OK, and RX_FIFO keeps its bytes. -/
def Obligations.DecoderFailureCausesAndEffect : Prop :=
  ∀ (i : Instr) (s t : State), exec i s = .next t → s.rxPhase ≠ .fail → t.rxPhase = .fail →
    t = { s with rxPhase := .fail, rxErr := t.rxErr, rxHold := [], crcMatch := false, cmdResult := .ok }
      ∧ (t.rxErr = .noTerminator ∧ i = .rxEnd ∧ (s.rxPhase = .data ∨ s.rxPhase = .esc)
        ∨ t.rxErr = .shortFrame ∧ i = .rxByte 0x7E ∧ s.rxPhase = .data ∧ s.rxHold.length < 2)

/-- R153, R158: a decoder failure lasts until RX_START or a reset. -/
def Obligations.DecoderFailurePersists : Prop :=
  ∀ (i : Instr) (s : State), s.rxPhase = .fail → i ≠ .rxStart → i ≠ .softReset →
    ∃ t, exec i s = .next t ∧ t.rxPhase = .fail ∧ t.rxErr = s.rxErr ∧ t.rxHold = s.rxHold ∧ t.rxFifo = s.rxFifo
      ∧ t.rxLen = s.rxLen ∧ t.rxAcc = s.rxAcc ∧ t.rxFcs = s.rxFcs ∧ t.crcMatch = s.crcMatch

/-- R20: besides a reset, only CRC_INIT, CRC_BYTE, TX_START and TX_BYTE write G. -/
def Obligations.OnlyNamedCommandsWriteG : Prop :=
  ∀ (i : Instr) (s t : State), exec i s = .next t → t.g ≠ s.g →
    i = .crcInit ∨ (∃ d, i = .crcByte d) ∨ i = .txStart ∨ (∃ d, i = .txByte d) ∨ i = .softReset

/-- The engines share nothing but CMD_RESULT: the generator's and the encoder's commands do not touch the decoder, and
the decoder's do not touch G or the encoder (R92, R102, R122, R158). -/
def Obligations.EnginesAreIndependent : Prop :=
  ∀ (i : Instr) (s t : State), i ≠ .softReset → exec i s = .next t →
    (t.rxPhase = s.rxPhase ∧ t.rxHold = s.rxHold ∧ t.rxFifo = s.rxFifo ∧ t.rxLen = s.rxLen ∧ t.rxAcc = s.rxAcc
        ∧ t.rxFcs = s.rxFcs ∧ t.crcMatch = s.crcMatch ∧ t.rxErr = s.rxErr
      ∨ i = .rxStart ∨ (∃ d, i = .rxByte d) ∨ i = .rxEnd)
    ∧ (t.g = s.g ∧ t.txPhase = s.txPhase ∧ t.txFifo = s.txFifo ∧ t.txLen = s.txLen
      ∨ i = .crcInit ∨ (∃ d, i = .crcByte d) ∨ i = .txStart ∨ (∃ d, i = .txByte d) ∨ i = .txEnd)

/-- A command changes neither the parameters, nor the pin, nor what its host has still to do or has observed. -/
def Obligations.CommandsLeaveHostSide : Prop :=
  ∀ (i : Instr) (s : State), ∃ t, exec i s = .next t
    ∧ t.params = s.params ∧ t.rstN = s.rstN ∧ t.pending = s.pending ∧ t.observed = s.observed

/-- R45: nothing a program writes, and no other event, changes a parameter. -/
def Obligations.ParametersNeverChange : Prop :=
  ∀ s t : State, step s = .next t → t.params = s.params

/-- R130: the decoder's success never depends on the checksum it computes: from states that differ only in RX_ACC and
CRC_MATCH every command leaves the same phase, error, payload and result. -/
def Obligations.SuccessIndependentOfChecksum : Prop :=
  ∀ (i : Instr) (s : State) (acc : Half) (m : Bool), ∃ t u,
    exec i s = .next t ∧ exec i { s with rxAcc := acc, crcMatch := m } = .next u
      ∧ u.rxPhase = t.rxPhase ∧ u.rxErr = t.rxErr ∧ u.rxFifo = t.rxFifo ∧ u.rxHold = t.rxHold
      ∧ u.rxLen = t.rxLen ∧ u.rxFcs = t.rxFcs ∧ u.cmdResult = t.cmdResult

/-! ## Invariants -/

/-- The reset state meets R33's invariants, and its parameters their ranges (R8). -/
def Obligations.ResetMeetsInvariant : Prop := Inv State.reset ∧ State.reset.params.WellFormed

/-- R33: every step keeps the invariants, from every state that meets them. -/
def Obligations.StepKeepsInvariant : Prop := ∀ s t : State, Inv s → step s = .next t → Inv t

/-- While rst_n is low the block stays at its reset values (R170, R172; the pin as a field and its events are the
model's choice, log 5). -/
def Obligations.BlockHeldInReset : Prop :=
  ∀ s t : State, (s.rstN = false → BlockReset s) → step s = .next t → (t.rstN = false → BlockReset t)

/-! ## The register window -/

/-- R38, R41, R42, R43, R56, R57: a read of CRC, TXCOUNT, RXCOUNT, RXCRC, STATUS or CMD returns the layout and changes
no element of the block. -/
def Obligations.StateRegistersReadLayouts : Prop :=
  ∀ (s : State) (rest : List HostEvent) (r : Reg) (v : Word),
    s.rstN = true → s.pending = .access (readAccess s.params r) :: rest →
    (r = .cmd ∧ v = 0 ∨ r = .crc ∧ v = ~~~s.g ++ s.g
      ∨ r = .txcount ∧ v = s.txLen ++ BitVec.ofNat 16 s.txFifo.length
      ∨ r = .rxcount ∧ v = s.rxLen ++ BitVec.ofNat 16 s.rxFifo.length
      ∨ r = .rxcrc ∧ v = ~~~s.rxAcc ++ s.rxFcs
      ∨ r = .status ∧ v = statusWord s) →
    step s = .next { s with pending := rest, observed := s.observed ++ [v] }

/-- R37: every field of STATUS shows its element; bits 31:14 read as 0; the word is 0 after reset. -/
def Obligations.StatusFieldsShowState : Prop :=
  (readReg .status State.reset).1 = 0x00000000
    ∧ ∀ (s : State) (v : Word), v = (readReg .status s).1 →
        (v.extractLsb' 0 2 = match s.txPhase with | .idle => 0 | .data => 1)
          ∧ (v.extractLsb' 2 3
              = match s.rxPhase with | .idle => 0 | .data => 1 | .esc => 2 | .done => 3 | .fail => 4)
          ∧ v.getLsbD 5 = s.crcMatch
          ∧ (s.rxHold.length ≤ 2 → (v.extractLsb' 6 2).toNat = s.rxHold.length)
          ∧ (v.extractLsb' 8 4 = match s.cmdResult with | .ok => 0 | .illegal => 1 | .sequence => 2 | .full => 3)
          ∧ (v.extractLsb' 12 2 = match s.rxErr with | .none => 0 | .noTerminator => 1 | .shortFrame => 2)
          ∧ v.extractLsb' 14 18 = 0

/-- R55, R39, R40: a read of TXOUT or RXOUT returns the oldest byte with VALID in bit 8 and pops it, and changes nothing
else; on an empty FIFO it returns 0 and pops nothing. -/
def Obligations.OutRegistersPop : Prop :=
  ∀ (s : State) (rest : List HostEvent), s.rstN = true →
    (s.pending = .access (readAccess s.params .txout) :: rest →
        (s.txFifo = [] → step s = .next { s with pending := rest, observed := s.observed ++ [0x00000000] })
          ∧ ∀ b bs, s.txFifo = b :: bs →
              step s = .next { s with
                pending := rest, txFifo := bs, observed := s.observed ++ [b.setWidth 32 ||| 0x00000100] })
      ∧ (s.pending = .access (readAccess s.params .rxout) :: rest →
        (s.rxFifo = [] → step s = .next { s with pending := rest, observed := s.observed ++ [0x00000000] })
          ∧ ∀ b bs, s.rxFifo = b :: bs →
              step s = .next { s with
                pending := rest, rxFifo := bs, observed := s.observed ++ [b.setWidth 32 ||| 0x00000100] })

/-- R54: a write to any register but CMD is ignored, CMD_RESULT included, with no bus error. -/
def Obligations.ReadOnlyWritesIgnored : Prop :=
  ∀ (s : State) (rest : List HostEvent) (r : Reg) (v : Word),
    s.rstN = true → r ≠ .cmd → s.pending = .access (writeAccess s.params r v) :: rest →
    step s = .next { s with pending := rest }

/-- R177: every aligned 32-bit access to the window completes, whatever it is, in every state with rst_n released. -/
def Obligations.EveryAcceptedAccessCompletes : Prop :=
  ∀ (s : State) (rest : List HostEvent) (k : Nat) (dir : Direction),
    s.rstN = true → k < 8 →
    s.pending = .access { addr := s.params.base + 4 * k, size := 4, lanes := 0xF, direction := dir } :: rest →
    ∃ t, step s = .next t ∧ t.pending = rest

/-- R52, R154: every other access to the window is a bus error, which the model faults (log 6). -/
def Obligations.UnacceptedAccessIsBusError : Prop :=
  ∀ (s : State) (rest : List HostEvent) (a : Access),
    s.params.WellFormed → s.rstN = true → s.pending = .access a :: rest →
    s.params.base ≤ a.addr → a.addr < s.params.base + 0x20 →
    a.size ≠ 4 ∨ a.lanes ≠ 0xF ∨ a.addr % 4 ≠ 0 →
    step s = .fault .busError

/-- What the spec puts outside the model is refused by name: an access that touches no byte of the window (log 7), an
access to the window while rst_n is low (R172), an access by a second master (R163, log 8). -/
def Obligations.AccessesOutsideTheModelRefused : Prop :=
  ∀ (s : State) (rest : List HostEvent) (a : Access), 1 ≤ a.size →
    (s.pending = .access a :: rest → (a.addr + a.size ≤ s.params.base ∨ s.params.base + 0x20 ≤ a.addr) →
        step s = .refused .outsideWindow)
      ∧ (s.pending = .access a :: rest → s.params.base ≤ a.addr → a.addr < s.params.base + 0x20 → s.rstN = false →
        step s = .refused .accessDuringReset)
      ∧ (s.pending = .foreign a :: rest → step s = .refused .secondMaster)

/-- R165: between accesses the block does nothing and keeps all state (a step with nothing to do is the model's choice,
log 3). -/
def Obligations.IdleStepKeepsState : Prop := ∀ s : State, s.pending = [] → step s = .next s

/-- R44: no register shows the bytes of RX_HOLD, only their count, nor the bytes behind the head of a FIFO, only the
level. -/
def Obligations.HiddenBytesNotRead : Prop :=
  ∀ (s : State) (hold tx rx : List Byte) (r : Reg),
    hold.length = s.rxHold.length → tx.length = s.txFifo.length → rx.length = s.rxFifo.length →
    tx.head? = s.txFifo.head? → rx.head? = s.rxFifo.head? →
    (readReg r { s with rxHold := hold, txFifo := tx, rxFifo := rx }).1 = (readReg r s).1

/-- R43: in DONE the two halves of RXCRC are equal exactly when CRC_MATCH = 1. -/
def Obligations.RxcrcHalvesEqualIffMatch : Prop :=
  ∀ s : State, Inv s → s.rxPhase = .done →
    (((readReg .rxcrc s).1.extractLsb' 16 16 = (readReg .rxcrc s).1.extractLsb' 0 16) ↔ s.crcMatch = true)

/-- R59, R151: an access that is not a write to CMD changes, of the block, at most the FIFO it pops: the phases, the
counters, the accumulators, the checksum, the error and CMD_RESULT stay. -/
def Obligations.NonCommandAccessKeepsEngines : Prop :=
  ∀ (s t : State) (rest : List HostEvent) (a : Access),
    s.pending = .access a :: rest → (∀ v, a ≠ writeAccess s.params .cmd v) → step s = .next t →
    t.g = s.g ∧ t.txPhase = s.txPhase ∧ t.txLen = s.txLen ∧ t.rxPhase = s.rxPhase ∧ t.rxHold = s.rxHold
      ∧ t.rxLen = s.rxLen ∧ t.rxAcc = s.rxAcc ∧ t.rxFcs = s.rxFcs ∧ t.crcMatch = s.crcMatch ∧ t.rxErr = s.rxErr
      ∧ t.cmdResult = s.cmdResult ∧ t.rstN = s.rstN ∧ t.params = s.params ∧ t.pending = rest
      ∧ (t.txFifo = s.txFifo ∨ a = readAccess s.params .txout ∧ t.txFifo = s.txFifo.tail)
      ∧ (t.rxFifo = s.rxFifo ∨ a = readAccess s.params .rxout ∧ t.rxFifo = s.rxFifo.tail)

/-! ## The checksum -/

/-- R94: CRC_INIT and a CRC_BYTE for each byte of s, none of which is rejected in IDLE, leave G = acc_over(0xFFFF, s) and
CRC[31:16] = crc16(s). -/
def Obligations.CrcCommandsComputeCrc16 : Prop :=
  ∀ (bs : List Byte) (s : State),
    (s.txPhase = .idle → ∃ t, acceptedRun (crc16Commands bs) s = some t)
      ∧ ∀ t, acceptedRun (crc16Commands bs) s = some t →
          t.g = accOver 0xFFFF bs ∧ (readReg .crc t).1.extractLsb' 16 16 = crc16 bs
            ∧ t = { s with g := t.g, cmdResult := .ok }

/-- The byte-wise form of R90: the eight iterations shift the accumulator down by a byte and XOR in a value that depends
only on the byte that leaves, so a table of 256 entries computes the same checksum. -/
def Obligations.CrcStepIsByteTable : Prop :=
  ∀ (acc : Half) (b : Byte),
    crcStep acc b = (acc >>> 8) ^^^ crcStep 0 (acc.extractLsb' 0 8 ^^^ b)

/-- R95: a sequence followed by its own checksum, low byte first, leaves the constant 0xF0B8. The spec marks this for
every s as general knowledge (G3); it follows from R90 and R91. -/
def Obligations.ChecksumResidue : Prop :=
  ∀ s : List Byte,
    accOver 0xFFFF (s ++ [(crc16 s).extractLsb' 0 8, (crc16 s).extractLsb' 8 8]) = 0xF0B8
      ∧ crc16 (s ++ [(crc16 s).extractLsb' 0 8, (crc16 s).extractLsb' 8 8]) = 0x0F47

/-- R96, and more: changing any one byte of any sequence, so every single-bit flip, changes its checksum. The spec marks
the general property as general knowledge (G4); it follows from R90 and R91. -/
def Obligations.ByteChangeChangesCrc : Prop :=
  ∀ (p q : List Byte) (b b' : Byte), b ≠ b' → crc16 (p ++ b :: q) ≠ crc16 (p ++ b' :: q)

/-! ## The encoder -/

/-- R105: from a state with TX_PHASE = IDLE, TX_START, a TX_BYTE for each byte of c, and TX_END, none rejected, append
exactly encode(c) to TX_FIFO; and when the host reads TXOUT in between and writes each command rejected with FULL again,
the bytes it reads and those left are the bytes already queued and then encode(c). -/
def Obligations.EncoderProducesFrame : Prop :=
  ∀ (c : List Byte) (s : State), s.txPhase = .idle →
    (∀ t, acceptedRun (encodeCommands c) s = some t →
        t = { s with
          txFifo := s.txFifo ++ encodeFrame c
          txLen := BitVec.ofNat 16 c.length
          g := accOver 0xFFFF c
          cmdResult := .ok })
      ∧ ∀ (bs : List Byte) (t : State), Feeds .txout (encodeCommands c) s bs t →
          bs ++ t.txFifo = s.txFifo ++ encodeFrame c ∧ t.txPhase = .idle ∧ t.txLen = BitVec.ofNat 16 c.length
            ∧ t.g = accOver 0xFFFF c

/-- R106: the length of a frame, its bound, its one terminator, and what follows an escape marker. -/
def Obligations.FrameLengthAndShape : Prop :=
  ∀ c : List Byte,
    (encodeFrame c).length = c.length + 3
        + (c ++ [(crc16 c).extractLsb' 0 8, (crc16 c).extractLsb' 8 8]).countP (fun b => b == 0x7D || b == 0x7E)
      ∧ c.length + 3 ≤ (encodeFrame c).length ∧ (encodeFrame c).length ≤ 2 * (c.length + 2) + 1
      ∧ (∃ body, encodeFrame c = body ++ [0x7E] ∧ (0x7E : Byte) ∉ body)
      ∧ ∀ p q, encodeFrame c = p ++ (0x7D : Byte) :: q → ∃ x r, q = x :: r ∧ (x = 0x5D ∨ x = 0x5E)

/-- R107: a host that reads no byte sees no rejection exactly when TX_CAP holds the frame and what is queued before it;
the worst case of a 133-byte buffer is 271 bytes, which the default TX_CAP holds. -/
def Obligations.TxRoomDecidesAcceptance : Prop :=
  (∀ (c : List Byte) (s : State), s.txPhase = .idle →
      ((∃ t, acceptedRun (encodeCommands c) s = some t) ↔
        s.txFifo.length + (encodeFrame c).length ≤ s.params.txCap))
    ∧ ∀ c : List Byte, c.length = 133 →
        (encodeFrame c).length ≤ 271 ∧ ∃ t, acceptedRun (encodeCommands c) State.reset = some t

/-! ## The decoder -/

/-- R128: RX_START, an RX_BYTE for each raw byte of r, and RX_END, from any state and with any reads of RXOUT and FULL
retries in between, end as decode(r) says. -/
def Obligations.DecoderComputesDecode : Prop :=
  ∀ (r : List Byte) (s s₁ : State) (bs : List Byte) (t : State),
    exec .rxStart s = .next s₁ → Feeds .rxout (r.map .rxByte ++ [.rxEnd]) s₁ bs t →
    match decodeFrame r with
    | .ok p f =>
      t.rxPhase = .done ∧ bs ++ t.rxFifo = p ∧ t.rxLen = BitVec.ofNat 16 p.length ∧ t.rxFcs = f
        ∧ (t.crcMatch = true ↔ f = crc16 p)
    | .fail e => t.rxPhase = .fail ∧ t.rxErr = e ∧ (e = .noTerminator ∨ e = .shortFrame)

/-- R129: decode(encode(c) ++ t) = OK(c, crc16(c)) for every c and every t, and the block, fed that stream by a host that
reads RXOUT as it likes, ends in DONE with CRC_MATCH = 1 and exactly c read out. -/
def Obligations.RoundTrip : Prop :=
  ∀ c t : List Byte,
    decodeFrame (encodeFrame c ++ t) = .ok c (crc16 c)
      ∧ ∀ (s s₁ : State) (bs : List Byte) (u : State),
          exec .rxStart s = .next s₁ → Feeds .rxout ((encodeFrame c ++ t).map .rxByte ++ [.rxEnd]) s₁ bs u →
          u.rxPhase = .done ∧ u.crcMatch = true ∧ bs ++ u.rxFifo = c

/-- R120: bytes after the terminator are not examined: a stream that decodes, or fails as SHORT_FRAME, does the same
whatever follows it. -/
def Obligations.BytesAfterTerminatorIgnored : Prop :=
  ∀ r t : List Byte, decodeFrame r ≠ .fail .noTerminator → decodeFrame (r ++ t) = decodeFrame r

/-- R131: a host that reads no byte before the terminator sees no rejection exactly when RX_CAP holds the payload. -/
def Obligations.RxRoomDecidesAcceptance : Prop :=
  ∀ (r p : List Byte) (f : Half) (s : State), decodeFrame r = .ok p f →
    ((∃ t, acceptedRun (decodeCommands r) s = some t) ↔ p.length ≤ s.params.rxCap)

/-! ## The host's programs -/

/-- R80, R81: what the lines of a program expand to, and the byte that is an assembly error. -/
def Obligations.LinesAssemble : Prop :=
  ∀ p : Params,
    assemble p [.byte .txByte 0x26, .read .status]
        = some [.access { addr := p.base, size := 4, lanes := 0xF, direction := .write 0x00001126 },
            .access { addr := p.base + 0x04, size := 4, lanes := 0xF, direction := .read }]
      ∧ (∀ b : Nat, 256 ≤ b → assemble p [.byte .rxByte b] = none)
      ∧ ∀ bs : List Byte,
          assemble p [.encode (bs.map BitVec.toNat)]
            = some (([Instr.txStart] ++ bs.map Instr.txByte ++ [Instr.txEnd]).map
                (fun i => .access (writeAccess p .cmd (encode i))))

/-- R81: DRAIN_TX and DRAIN_RX read until a read returns VALID = 0, which takes one read more than the FIFO has bytes and
leaves it empty (the drain as one entry of the program is the model's choice, log 11). -/
def Obligations.DrainsEmptyTheFifos : Prop :=
  ∀ (s : State) (rest : List HostEvent), s.rstN = true →
    (s.pending = .drainTx :: rest →
        Sys2Proof.core.run (s.txFifo.length + 1) s
          = .next { s with pending := rest, txFifo := [], observed := s.observed ++ s.txFifo.map validWord ++ [0] })
      ∧ (s.pending = .drainRx :: rest →
        Sys2Proof.core.run (s.rxFifo.length + 1) s
          = .next { s with pending := rest, rxFifo := [], observed := s.observed ++ s.rxFifo.map validWord ++ [0] })
end

