-- ==== Sys2Proof/Laws/State.lean ====
section
/-! SUPPORT. What each named update does to each field of State, one lemma per field per update, and that the state a
program starts from is the reset state of R170. -/

namespace Sys2Proof.Machine

variable (s : State)

@[simp] theorem setResult_g (c : CmdResult) : (setResult c s).g = s.g := rfl
@[simp] theorem setResult_txPhase (c : CmdResult) : (setResult c s).txPhase = s.txPhase := rfl
@[simp] theorem setResult_txFifo (c : CmdResult) : (setResult c s).txFifo = s.txFifo := rfl
@[simp] theorem setResult_txLen (c : CmdResult) : (setResult c s).txLen = s.txLen := rfl
@[simp] theorem setResult_rxPhase (c : CmdResult) : (setResult c s).rxPhase = s.rxPhase := rfl
@[simp] theorem setResult_rxHold (c : CmdResult) : (setResult c s).rxHold = s.rxHold := rfl
@[simp] theorem setResult_rxFifo (c : CmdResult) : (setResult c s).rxFifo = s.rxFifo := rfl
@[simp] theorem setResult_rxLen (c : CmdResult) : (setResult c s).rxLen = s.rxLen := rfl
@[simp] theorem setResult_rxAcc (c : CmdResult) : (setResult c s).rxAcc = s.rxAcc := rfl
@[simp] theorem setResult_rxFcs (c : CmdResult) : (setResult c s).rxFcs = s.rxFcs := rfl
@[simp] theorem setResult_crcMatch (c : CmdResult) : (setResult c s).crcMatch = s.crcMatch := rfl
@[simp] theorem setResult_rxErr (c : CmdResult) : (setResult c s).rxErr = s.rxErr := rfl
@[simp] theorem setResult_cmdResult (c : CmdResult) : (setResult c s).cmdResult = c := rfl
@[simp] theorem setResult_rstN (c : CmdResult) : (setResult c s).rstN = s.rstN := rfl
@[simp] theorem setResult_params (c : CmdResult) : (setResult c s).params = s.params := rfl
@[simp] theorem setResult_pending (c : CmdResult) : (setResult c s).pending = s.pending := rfl
@[simp] theorem setResult_observed (c : CmdResult) : (setResult c s).observed = s.observed := rfl

@[simp] theorem pushTx_g (e : List Byte) : (pushTx e s).g = s.g := rfl
@[simp] theorem pushTx_txPhase (e : List Byte) : (pushTx e s).txPhase = s.txPhase := rfl
@[simp] theorem pushTx_txFifo (e : List Byte) : (pushTx e s).txFifo = s.txFifo ++ e := rfl
@[simp] theorem pushTx_txLen (e : List Byte) : (pushTx e s).txLen = s.txLen := rfl
@[simp] theorem pushTx_rxPhase (e : List Byte) : (pushTx e s).rxPhase = s.rxPhase := rfl
@[simp] theorem pushTx_rxHold (e : List Byte) : (pushTx e s).rxHold = s.rxHold := rfl
@[simp] theorem pushTx_rxFifo (e : List Byte) : (pushTx e s).rxFifo = s.rxFifo := rfl
@[simp] theorem pushTx_rxLen (e : List Byte) : (pushTx e s).rxLen = s.rxLen := rfl
@[simp] theorem pushTx_rxAcc (e : List Byte) : (pushTx e s).rxAcc = s.rxAcc := rfl
@[simp] theorem pushTx_rxFcs (e : List Byte) : (pushTx e s).rxFcs = s.rxFcs := rfl
@[simp] theorem pushTx_crcMatch (e : List Byte) : (pushTx e s).crcMatch = s.crcMatch := rfl
@[simp] theorem pushTx_rxErr (e : List Byte) : (pushTx e s).rxErr = s.rxErr := rfl
@[simp] theorem pushTx_cmdResult (e : List Byte) : (pushTx e s).cmdResult = s.cmdResult := rfl
@[simp] theorem pushTx_rstN (e : List Byte) : (pushTx e s).rstN = s.rstN := rfl
@[simp] theorem pushTx_params (e : List Byte) : (pushTx e s).params = s.params := rfl
@[simp] theorem pushTx_pending (e : List Byte) : (pushTx e s).pending = s.pending := rfl
@[simp] theorem pushTx_observed (e : List Byte) : (pushTx e s).observed = s.observed := rfl

@[simp] theorem pushRx_g (b : Byte) : (pushRx b s).g = s.g := rfl
@[simp] theorem pushRx_txPhase (b : Byte) : (pushRx b s).txPhase = s.txPhase := rfl
@[simp] theorem pushRx_txFifo (b : Byte) : (pushRx b s).txFifo = s.txFifo := rfl
@[simp] theorem pushRx_txLen (b : Byte) : (pushRx b s).txLen = s.txLen := rfl
@[simp] theorem pushRx_rxPhase (b : Byte) : (pushRx b s).rxPhase = s.rxPhase := rfl
@[simp] theorem pushRx_rxHold (b : Byte) : (pushRx b s).rxHold = s.rxHold := rfl
@[simp] theorem pushRx_rxFifo (b : Byte) : (pushRx b s).rxFifo = s.rxFifo ++ [b] := rfl
@[simp] theorem pushRx_rxLen (b : Byte) : (pushRx b s).rxLen = s.rxLen := rfl
@[simp] theorem pushRx_rxAcc (b : Byte) : (pushRx b s).rxAcc = s.rxAcc := rfl
@[simp] theorem pushRx_rxFcs (b : Byte) : (pushRx b s).rxFcs = s.rxFcs := rfl
@[simp] theorem pushRx_crcMatch (b : Byte) : (pushRx b s).crcMatch = s.crcMatch := rfl
@[simp] theorem pushRx_rxErr (b : Byte) : (pushRx b s).rxErr = s.rxErr := rfl
@[simp] theorem pushRx_cmdResult (b : Byte) : (pushRx b s).cmdResult = s.cmdResult := rfl
@[simp] theorem pushRx_rstN (b : Byte) : (pushRx b s).rstN = s.rstN := rfl
@[simp] theorem pushRx_params (b : Byte) : (pushRx b s).params = s.params := rfl
@[simp] theorem pushRx_pending (b : Byte) : (pushRx b s).pending = s.pending := rfl
@[simp] theorem pushRx_observed (b : Byte) : (pushRx b s).observed = s.observed := rfl

@[simp] theorem commitHeld_g (c : Byte) (h : List Byte) : (commitHeld c h s).g = s.g := rfl
@[simp] theorem commitHeld_txPhase (c : Byte) (h : List Byte) : (commitHeld c h s).txPhase = s.txPhase := rfl
@[simp] theorem commitHeld_txFifo (c : Byte) (h : List Byte) : (commitHeld c h s).txFifo = s.txFifo := rfl
@[simp] theorem commitHeld_txLen (c : Byte) (h : List Byte) : (commitHeld c h s).txLen = s.txLen := rfl
@[simp] theorem commitHeld_rxPhase (c : Byte) (h : List Byte) : (commitHeld c h s).rxPhase = s.rxPhase := rfl
@[simp] theorem commitHeld_rxHold (c : Byte) (h : List Byte) : (commitHeld c h s).rxHold = h := rfl
@[simp] theorem commitHeld_rxFifo (c : Byte) (h : List Byte) : (commitHeld c h s).rxFifo = s.rxFifo ++ [c] := rfl
@[simp] theorem commitHeld_rxLen (c : Byte) (h : List Byte) : (commitHeld c h s).rxLen = s.rxLen + 1 := rfl
@[simp] theorem commitHeld_rxAcc (c : Byte) (h : List Byte) : (commitHeld c h s).rxAcc = crcStep s.rxAcc c := rfl
@[simp] theorem commitHeld_rxFcs (c : Byte) (h : List Byte) : (commitHeld c h s).rxFcs = s.rxFcs := rfl
@[simp] theorem commitHeld_crcMatch (c : Byte) (h : List Byte) : (commitHeld c h s).crcMatch = s.crcMatch := rfl
@[simp] theorem commitHeld_rxErr (c : Byte) (h : List Byte) : (commitHeld c h s).rxErr = s.rxErr := rfl
@[simp] theorem commitHeld_cmdResult (c : Byte) (h : List Byte) : (commitHeld c h s).cmdResult = s.cmdResult := rfl
@[simp] theorem commitHeld_rstN (c : Byte) (h : List Byte) : (commitHeld c h s).rstN = s.rstN := rfl
@[simp] theorem commitHeld_params (c : Byte) (h : List Byte) : (commitHeld c h s).params = s.params := rfl
@[simp] theorem commitHeld_pending (c : Byte) (h : List Byte) : (commitHeld c h s).pending = s.pending := rfl
@[simp] theorem commitHeld_observed (c : Byte) (h : List Byte) : (commitHeld c h s).observed = s.observed := rfl

@[simp] theorem failRx_g (e : RxErr) : (failRx e s).g = s.g := rfl
@[simp] theorem failRx_txPhase (e : RxErr) : (failRx e s).txPhase = s.txPhase := rfl
@[simp] theorem failRx_txFifo (e : RxErr) : (failRx e s).txFifo = s.txFifo := rfl
@[simp] theorem failRx_txLen (e : RxErr) : (failRx e s).txLen = s.txLen := rfl
@[simp] theorem failRx_rxPhase (e : RxErr) : (failRx e s).rxPhase = .fail := rfl
@[simp] theorem failRx_rxHold (e : RxErr) : (failRx e s).rxHold = [] := rfl
@[simp] theorem failRx_rxFifo (e : RxErr) : (failRx e s).rxFifo = s.rxFifo := rfl
@[simp] theorem failRx_rxLen (e : RxErr) : (failRx e s).rxLen = s.rxLen := rfl
@[simp] theorem failRx_rxAcc (e : RxErr) : (failRx e s).rxAcc = s.rxAcc := rfl
@[simp] theorem failRx_rxFcs (e : RxErr) : (failRx e s).rxFcs = s.rxFcs := rfl
@[simp] theorem failRx_crcMatch (e : RxErr) : (failRx e s).crcMatch = false := rfl
@[simp] theorem failRx_rxErr (e : RxErr) : (failRx e s).rxErr = e := rfl
@[simp] theorem failRx_cmdResult (e : RxErr) : (failRx e s).cmdResult = s.cmdResult := rfl
@[simp] theorem failRx_rstN (e : RxErr) : (failRx e s).rstN = s.rstN := rfl
@[simp] theorem failRx_params (e : RxErr) : (failRx e s).params = s.params := rfl
@[simp] theorem failRx_pending (e : RxErr) : (failRx e s).pending = s.pending := rfl
@[simp] theorem failRx_observed (e : RxErr) : (failRx e s).observed = s.observed := rfl

@[simp] theorem observe_g (v : Word) : (observe v s).g = s.g := rfl
@[simp] theorem observe_txPhase (v : Word) : (observe v s).txPhase = s.txPhase := rfl
@[simp] theorem observe_txFifo (v : Word) : (observe v s).txFifo = s.txFifo := rfl
@[simp] theorem observe_txLen (v : Word) : (observe v s).txLen = s.txLen := rfl
@[simp] theorem observe_rxPhase (v : Word) : (observe v s).rxPhase = s.rxPhase := rfl
@[simp] theorem observe_rxHold (v : Word) : (observe v s).rxHold = s.rxHold := rfl
@[simp] theorem observe_rxFifo (v : Word) : (observe v s).rxFifo = s.rxFifo := rfl
@[simp] theorem observe_rxLen (v : Word) : (observe v s).rxLen = s.rxLen := rfl
@[simp] theorem observe_rxAcc (v : Word) : (observe v s).rxAcc = s.rxAcc := rfl
@[simp] theorem observe_rxFcs (v : Word) : (observe v s).rxFcs = s.rxFcs := rfl
@[simp] theorem observe_crcMatch (v : Word) : (observe v s).crcMatch = s.crcMatch := rfl
@[simp] theorem observe_rxErr (v : Word) : (observe v s).rxErr = s.rxErr := rfl
@[simp] theorem observe_cmdResult (v : Word) : (observe v s).cmdResult = s.cmdResult := rfl
@[simp] theorem observe_rstN (v : Word) : (observe v s).rstN = s.rstN := rfl
@[simp] theorem observe_params (v : Word) : (observe v s).params = s.params := rfl
@[simp] theorem observe_pending (v : Word) : (observe v s).pending = s.pending := rfl
@[simp] theorem observe_observed (v : Word) : (observe v s).observed = s.observed ++ [v] := rfl

@[simp] theorem resetState_g : (resetState s).g = 0xFFFF := rfl
@[simp] theorem resetState_txPhase : (resetState s).txPhase = .idle := rfl
@[simp] theorem resetState_txFifo : (resetState s).txFifo = [] := rfl
@[simp] theorem resetState_txLen : (resetState s).txLen = 0 := rfl
@[simp] theorem resetState_rxPhase : (resetState s).rxPhase = .idle := rfl
@[simp] theorem resetState_rxHold : (resetState s).rxHold = [] := rfl
@[simp] theorem resetState_rxFifo : (resetState s).rxFifo = [] := rfl
@[simp] theorem resetState_rxLen : (resetState s).rxLen = 0 := rfl
@[simp] theorem resetState_rxAcc : (resetState s).rxAcc = 0xFFFF := rfl
@[simp] theorem resetState_rxFcs : (resetState s).rxFcs = 0 := rfl
@[simp] theorem resetState_crcMatch : (resetState s).crcMatch = false := rfl
@[simp] theorem resetState_rxErr : (resetState s).rxErr = .none := rfl
@[simp] theorem resetState_cmdResult : (resetState s).cmdResult = .ok := rfl
@[simp] theorem resetState_rstN : (resetState s).rstN = s.rstN := rfl
@[simp] theorem resetState_params : (resetState s).params = s.params := rfl
@[simp] theorem resetState_pending : (resetState s).pending = s.pending := rfl
@[simp] theorem resetState_observed : (resetState s).observed = s.observed := rfl

/-- SOFT_RESET and the reset pin lead to the elements of the reset state (R170). -/
theorem resetState_reset : resetState State.reset = State.reset := rfl

end Sys2Proof.Machine
end

