-- ==== Sys2Proof/Laws/Bus.lean ====
section
/-! SUPPORT. What a step does, by the event it takes: an accepted access reaches its register, whatever BASE is. -/

namespace Sys2Proof.Machine

theorem regAt_offset (r : Reg) : regAt r.offset = some r := by cases r <;> rfl

theorem regAt_eq_some {n : Nat} {r : Reg} (h : regAt n = some r) : n = r.offset := by
  unfold regAt at h
  split at h <;> simp_all <;> subst h <;> rfl

theorem offset_lt (r : Reg) : r.offset < Config.windowSize := by cases r <;> decide

/-- The offsets of the registers are the multiples of 4 in the window (R35). -/
theorem exists_offset_eq {k : Nat} (h : k < 8) : ∃ r : Reg, r.offset = 4 * k := by
  have : k = 0 ∨ k = 1 ∨ k = 2 ∨ k = 3 ∨ k = 4 ∨ k = 5 ∨ k = 6 ∨ k = 7 := by omega
  rcases this with h | h | h | h | h | h | h | h <;> subst h
  exacts [⟨.cmd, rfl⟩, ⟨.status, rfl⟩, ⟨.crc, rfl⟩, ⟨.txout, rfl⟩, ⟨.rxout, rfl⟩, ⟨.txcount, rfl⟩,
    ⟨.rxcount, rfl⟩, ⟨.rxcrc, rfl⟩]

/-- The one shape of an accepted access (R52). -/
theorem touchesWindow_aligned (p : Params) (r : Reg) (d : Direction) :
    touchesWindow p { addr := p.base + r.offset, size := 4, lanes := 0xF, direction := d } = true := by
  have := offset_lt r
  simp only [touchesWindow, Bool.and_eq_true, decide_eq_true_eq]
  omega

theorem acceptedReg_aligned (p : Params) (r : Reg) (d : Direction) :
    acceptedReg p { addr := p.base + r.offset, size := 4, lanes := 0xF, direction := d } = some r := by
  simp only [acceptedReg, Nat.le_add_right, and_self, if_true, Nat.add_sub_cancel_left, regAt_offset]

/-- An accepted access is an aligned 32-bit access with all lanes, at the register's address (R52). -/
theorem acceptedReg_eq_some {p : Params} {a : Access} {r : Reg} (h : acceptedReg p a = some r) :
    a = { addr := p.base + r.offset, size := 4, lanes := 0xF, direction := a.direction } := by
  obtain ⟨addr, size, lanes, d⟩ := a
  unfold acceptedReg at h
  split at h
  · rename_i hc
    obtain ⟨rfl, rfl, hle⟩ := hc
    have := regAt_eq_some h
    simp only [Access.mk.injEq, and_true]
    simp only at this hle
    omega
  · cases h

/-- An access is to the window when one of its bytes is one of the window's 0x20 (R50). -/
theorem touchesWindow_iff (p : Params) (a : Access) :
    touchesWindow p a = true ↔ a.addr < p.base + 0x20 ∧ p.base < a.addr + max a.size 1 := by
  unfold touchesWindow
  rw [Bool.and_eq_true, decide_eq_true_iff, decide_eq_true_iff]
  rfl

theorem step_access {s : State} {a : Access} {rest : List HostEvent} (h : s.pending = .access a :: rest) :
    step s = hostAccess a { s with pending := rest } := by
  simp only [step, nextEvent, h, runEvent]

theorem hostAccess_aligned {s : State} {p : Params} (hp : s.params = p) (h : s.rstN = true) (r : Reg) (d : Direction) :
    hostAccess { addr := p.base + r.offset, size := 4, lanes := 0xF, direction := d } s = registerAccess r d s := by
  subst hp
  simp only [hostAccess, touchesWindow_aligned, acceptedReg_aligned, h, if_true]

/-- An access of an open block is accepted, or a bus error (R52). -/
theorem hostAccess_cases (a : Access) (s : State) :
    (∃ r, acceptedReg s.params a = some r ∧ s.rstN = true ∧ hostAccess a s = registerAccess r a.direction s)
      ∨ hostAccess a s = .fault .busError ∨ hostAccess a s = .refused .accessDuringReset
      ∨ hostAccess a s = .refused .outsideWindow := by
  unfold hostAccess
  split
  · split
    · split
      · exact .inl ⟨_, ‹_›, ‹_›, rfl⟩
      · exact .inr (.inl rfl)
    · exact .inr (.inr (.inl rfl))
  · exact .inr (.inr (.inr rfl))

theorem hostAccess_busError {a : Access} {s : State} (ht : touchesWindow s.params a = true) (h : s.rstN = true)
    (hn : acceptedReg s.params a = none) : hostAccess a s = .fault .busError := by
  simp only [hostAccess, ht, h, hn, if_true]

theorem hostAccess_outside {a : Access} {s : State} (ht : touchesWindow s.params a = false) :
    hostAccess a s = .refused .outsideWindow := by
  simp only [hostAccess, ht, Bool.false_eq_true, if_false]

theorem hostAccess_inReset {a : Access} {s : State} (ht : touchesWindow s.params a = true) (h : s.rstN = false) :
    hostAccess a s = .refused .accessDuringReset := by
  simp only [hostAccess, ht, h, Bool.false_eq_true, if_true, if_false]

/-- An access that starts in the window touches it. -/
theorem touchesWindow_start {p : Params} {a : Access} (h : p.base ≤ a.addr)
    (h' : a.addr < p.base + Config.windowSize) : touchesWindow p a = true := by
  simp only [touchesWindow, Bool.and_eq_true, decide_eq_true_eq]
  omega

/-- A read that reaches its register (R53 to R57). -/
theorem step_read {s : State} {r : Reg} {rest : List HostEvent} (h : s.rstN = true)
    (hp : s.pending = .access (readAccess s.params r) :: rest) :
    step s = .next (observe (readReg r { s with pending := rest }).1 (readReg r { s with pending := rest }).2) := by
  rw [step_access hp]
  exact hostAccess_aligned (s := { s with pending := rest }) rfl h r .read

/-- A write that reaches its register (R53, R54). -/
theorem step_write {s : State} {r : Reg} {v : Word} {rest : List HostEvent} (h : s.rstN = true)
    (hp : s.pending = .access (writeAccess s.params r v) :: rest) :
    step s = writeReg r v { s with pending := rest } := by
  rw [step_access hp]
  exact hostAccess_aligned (s := { s with pending := rest }) rfl h r (.write v)

/-- A write to a read-only register is ignored (R54). -/
theorem writeReg_readOnly {r : Reg} (h : r ≠ .cmd) (v : Word) (s : State) : writeReg r v s = .next s := by
  cases r <;> first | exact absurd rfl h | rfl

/-- Reading a register other than TXOUT and RXOUT changes nothing (R56, R57). -/
theorem readReg_state {r : Reg} (ht : r ≠ .txout) (hr : r ≠ .rxout) (s : State) : (readReg r s).2 = s := by
  cases r <;> first | exact absurd rfl ht | exact absurd rfl hr | rfl

@[simp] theorem popTx_nil {s : State} (h : s.txFifo = []) : popTx s = (0, s) := by simp only [popTx, h]

@[simp] theorem popTx_cons {s : State} {b : Byte} {bs : List Byte} (h : s.txFifo = b :: bs) :
    popTx s = (validWord b, { s with txFifo := bs }) := by simp only [popTx, h]

@[simp] theorem popRx_nil {s : State} (h : s.rxFifo = []) : popRx s = (0, s) := by simp only [popRx, h]

@[simp] theorem popRx_cons {s : State} {b : Byte} {bs : List Byte} (h : s.rxFifo = b :: bs) :
    popRx s = (validWord b, { s with rxFifo := bs }) := by simp only [popRx, h]

/-- A pop removes the oldest byte, if there is one, and changes nothing else (R55). -/
theorem popTx_state (s : State) : (popTx s).2 = { s with txFifo := s.txFifo.tail } := by
  obtain ⟨⟩ | ⟨b, bs, h⟩ : s.txFifo = [] ∨ ∃ b bs, s.txFifo = b :: bs := by cases s.txFifo <;> simp
  · simp only [popTx_nil ‹_›, ‹s.txFifo = []›, List.tail_nil]; cases s; simp_all
  · rw [popTx_cons h, h, List.tail_cons]

theorem popRx_state (s : State) : (popRx s).2 = { s with rxFifo := s.rxFifo.tail } := by
  obtain ⟨⟩ | ⟨b, bs, h⟩ : s.rxFifo = [] ∨ ∃ b bs, s.rxFifo = b :: bs := by cases s.rxFifo <;> simp
  · simp only [popRx_nil ‹_›, ‹s.rxFifo = []›, List.tail_nil]; cases s; simp_all
  · rw [popRx_cons h, h, List.tail_cons]

/-- VALID tells a byte from an empty pop (R55). -/
theorem validWord_ne_zero (b : Byte) : validWord b ≠ 0 := by
  intro h
  have h8 := congrArg (fun v => BitVec.getLsbD v 8) h
  simp [validWord] at h8

theorem validWord_byte (b : Byte) : (validWord b).extractLsb' 0 8 = b := by
  apply BitVec.eq_of_getLsbD_eq
  intro i hi
  have h256 : ∀ j, j < 8 → (0x00000100 : Word).getLsbD j = false := by decide
  simp only [validWord, BitVec.getLsbD_extractLsb', BitVec.getLsbD_or, BitVec.getLsbD_setWidth, Nat.zero_add,
    h256 i hi, hi, show i < 32 by omega, decide_true, Bool.true_and, Bool.or_false]

theorem validWord_inj {b c : Byte} (h : validWord b = validWord c) : b = c := by
  rw [← validWord_byte b, h, validWord_byte]

/-- A read of TXOUT that returns a byte popped it. -/
theorem readReg_txout_valid {s u : State} {b : Byte} (h : readReg .txout s = (validWord b, u)) :
    ∃ bs, s.txFifo = b :: bs ∧ u = { s with txFifo := bs } := by
  rcases hf : s.txFifo with _ | ⟨c, bs⟩
  · rw [readReg, popTx_nil hf] at h
    exact absurd (congrArg Prod.fst h).symm (validWord_ne_zero b)
  · rw [readReg, popTx_cons hf] at h
    injection h with hv hu
    exact ⟨bs, by rw [validWord_inj hv], hu.symm⟩

/-- A read of RXOUT that returns a byte popped it. -/
theorem readReg_rxout_valid {s u : State} {b : Byte} (h : readReg .rxout s = (validWord b, u)) :
    ∃ bs, s.rxFifo = b :: bs ∧ u = { s with rxFifo := bs } := by
  rcases hf : s.rxFifo with _ | ⟨c, bs⟩
  · rw [readReg, popRx_nil hf] at h
    exact absurd (congrArg Prod.fst h).symm (validWord_ne_zero b)
  · rw [readReg, popRx_cons hf] at h
    injection h with hv hu
    exact ⟨bs, by rw [validWord_inj hv], hu.symm⟩

end Sys2Proof.Machine
end

