-- ==== Sys2Proof/Laws/Codec.lean ====
section
/-! SUPPORT. The checksum is linear over XOR and loses nothing (40_crc.md R90), and the laws of escaping (R100). -/

namespace Sys2Proof.Machine

/-- R90's inner iteration as one XOR. -/
theorem crcShift_eq (a : Half) : crcShift a = (a >>> 1) ^^^ (if a.getLsbD 0 then Config.poly else 0) := by
  unfold crcShift
  split <;> simp

theorem crcShift_xor (a b : Half) : crcShift (a ^^^ b) = crcShift a ^^^ crcShift b := by
  simp only [crcShift_eq, BitVec.ushiftRight_xor_distrib, BitVec.getLsbD_xor]
  generalize a >>> 1 = x
  generalize b >>> 1 = y
  generalize Config.poly = p
  apply BitVec.eq_of_getLsbD_eq
  intro i _
  cases a.getLsbD 0 <;> cases b.getLsbD 0 <;> simp <;>
    cases x.getLsbD i <;> cases y.getLsbD i <;> cases p.getLsbD i <;> rfl

theorem crcShifts_xor (n : Nat) (a b : Half) : crcShifts n (a ^^^ b) = crcShifts n a ^^^ crcShifts n b := by
  induction n generalizing a b with
  | zero => rfl
  | succ k ih => simp only [crcShifts, crcShift_xor, ih]

theorem crcStep_eq (acc : Half) (b : Byte) : crcStep acc b = crcShifts 8 acc ^^^ crcShifts 8 (b.setWidth 16) :=
  crcShifts_xor 8 _ _

/-- Bit 15 of an inner iteration's result is the bit shifted out: POLY's top bit is set. -/
theorem crcShift_top (a : Half) : (crcShift a).getLsbD 15 = a.getLsbD 0 := by
  rw [crcShift_eq]
  cases h : a.getLsbD 0 <;> simp [Config.poly]

theorem crcShift_eq_zero {a : Half} (h : crcShift a = 0) : a = 0 := by
  have h0 : a.getLsbD 0 = false := by rw [← crcShift_top, h]; rfl
  have h : a >>> 1 = 0 := by
    rw [crcShift, h0] at h
    exact h
  apply BitVec.eq_of_getLsbD_eq
  intro i hi
  cases i with
  | zero => simpa using h0
  | succ k =>
    have := congrArg (fun v => BitVec.getLsbD v k) h
    simpa [Nat.add_comm] using this

theorem crcShifts_eq_zero {n : Nat} {a : Half} (h : crcShifts n a = 0) : a = 0 := by
  induction n generalizing a with
  | zero => exact h
  | succ k ih => exact crcShift_eq_zero (ih h)

/-- No two values iterate to the same one. -/
theorem crcShifts_inj {n : Nat} {a b : Half} (h : crcShifts n a = crcShifts n b) : a = b := by
  rw [← BitVec.xor_eq_zero_iff] at h ⊢
  exact crcShifts_eq_zero (by rwa [crcShifts_xor])

theorem accOver_append (a : Half) (s t : List Byte) : accOver a (s ++ t) = accOver (accOver a s) t := by
  induction s generalizing a with
  | nil => rfl
  | cons b s ih => exact ih _

theorem crcFinal_eq (a : Half) : crcFinal a = ~~~a := by
  rw [crcFinal, ← BitVec.xor_allOnes]
  rfl

theorem escapeByte_marker : escapeByte 0x7D = [0x7D, 0x5D] := by decide

theorem escapeByte_flag : escapeByte 0x7E = [0x7D, 0x5E] := by decide

theorem escapeByte_other {b : Byte} (h : b ≠ 0x7D) (h' : b ≠ 0x7E) : escapeByte b = [b] := by
  simp only [escapeByte, Config.esc, Config.flag, h, h', or_self, if_false]

/-- The three shapes of an escaped byte (R100). -/
theorem escapeByte_cases (b : Byte) :
    (b = 0x7D ∧ escapeByte b = [0x7D, 0x5D]) ∨ (b = 0x7E ∧ escapeByte b = [0x7D, 0x5E])
      ∨ (b ≠ 0x7D ∧ b ≠ 0x7E ∧ escapeByte b = [b]) := by
  by_cases h : b = 0x7D
  · subst h; exact .inl ⟨rfl, escapeByte_marker⟩
  · by_cases h' : b = 0x7E
    · subst h'; exact .inr (.inl ⟨rfl, escapeByte_flag⟩)
    · exact .inr (.inr ⟨h, h', escapeByte_other h h'⟩)

theorem escapeAll_append (s t : List Byte) : escapeAll (s ++ t) = escapeAll s ++ escapeAll t := by
  induction s with
  | nil => rfl
  | cons b s ih => simp only [List.cons_append, escapeAll, ih, List.append_assoc]

/-- One turn of R120's loop. -/
theorem decodeFrom_cons (d : List Byte) (b : Byte) (r : List Byte) :
    decodeFrom d (b :: r)
      = if b = 0x7E then finishFrame d
        else if b = 0x7D then
          match r with
          | [] => .fail .noTerminator
          | x :: rest => decodeFrom (d ++ [x ^^^ 0x20]) rest
        else decodeFrom (d ++ [b]) r := by
  cases r with
  | nil =>
    by_cases h : b = 0x7E
    · subst h; rfl
    · by_cases h' : b = 0x7D
      · subst h'; rfl
      · rw [if_neg h, if_neg h', decodeFrom]
        exact if_neg h
  | cons x rest => rw [decodeFrom]; rfl

/-- At the first terminator, the last two decoded bytes are the checksum (R120). -/
theorem finishFrame_ok (p : List Byte) (lo hi : Byte) :
    finishFrame (p ++ [lo, hi]) = .ok p (halfOfBytes lo hi) := by
  have hlen : (p ++ [lo, hi]).length - 2 = p.length := by simp
  rw [finishFrame, hlen, List.drop_left' rfl, List.take_left' rfl]

theorem finishFrame_short {d : List Byte} (h : d.length < 2) : finishFrame d = .fail .shortFrame := by
  rcases d with _ | ⟨a, _ | ⟨b, d⟩⟩
  · rfl
  · rfl
  · simp at h

end Sys2Proof.Machine
end

