-- ==== Sys2Proof/Laws/Decode.lean ====
section
/-! SUPPORT. The fields of a command word (30_encoding.md R70), and the words the encoder makes. -/

namespace Sys2Proof

theorem rsvField_append (rsv : Half) (op d : Byte) : rsvField (rsv ++ op ++ d) = rsv := by
  apply BitVec.eq_of_getLsbD_eq
  intro i hi
  simp only [rsvField, BitVec.getLsbD_extractLsb', BitVec.getLsbD_append, hi, decide_true, Bool.true_and]
  rw [if_neg (by omega), if_neg (by omega)]
  congr 1
  omega

theorem opField_append (rsv : Half) (op d : Byte) : opField (rsv ++ op ++ d) = op := by
  apply BitVec.eq_of_getLsbD_eq
  intro i hi
  simp only [opField, BitVec.getLsbD_extractLsb', BitVec.getLsbD_append, hi, decide_true, Bool.true_and]
  rw [if_neg (by omega), if_pos (by omega)]
  congr 1
  omega

theorem dataField_append (rsv : Half) (op d : Byte) : dataField (rsv ++ op ++ d) = d := by
  apply BitVec.eq_of_getLsbD_eq
  intro i hi
  simp only [dataField, BitVec.getLsbD_extractLsb', BitVec.getLsbD_append, hi, decide_true, Bool.true_and]
  rw [if_pos (by omega)]
  congr 1
  omega

/-- A word is its three fields. -/
theorem word_eq_fields (w : Word) : rsvField w ++ opField w ++ dataField w = w := by
  apply BitVec.eq_of_getLsbD_eq
  intro i hi
  simp only [rsvField, opField, dataField, BitVec.getLsbD_append, BitVec.getLsbD_extractLsb']
  split
  · simp only [*, decide_true, Bool.true_and, Nat.zero_add]
  · split
    · simp only [*, decide_true, Bool.true_and]; congr 1; omega
    · rw [decide_eq_true (by omega), Bool.true_and]; congr 1; omega

/-- Decoding looks at RSV, OP and DATA in that order (R72). -/
theorem decodeWord_append (rsv : Half) (op d : Byte) :
    decodeWord (rsv ++ op ++ d) = if rsv = 0 then decodeOp op d else .error .reservedField := by
  simp only [decodeWord, rsvField_append, opField_append, dataField_append]

theorem dataless_ok {i j : Instr} {d : Byte} (h : dataless i d = .ok j) : d = 0 ∧ j = i := by
  unfold dataless at h
  split at h
  · cases h; exact ⟨‹_›, rfl⟩
  · cases h

end Sys2Proof
end

