-- ==== Sys2Proof/Laws/Flags.lean ====
section
/-! SUPPORT. Where each field stands in a STATUS-shaped word (10_state.md R37). -/

namespace Sys2Proof.Machine

/-- The layout of R37 over any field values. -/
def statusLayout (err : BitVec 2) (result : BitVec 4) (count : BitVec 2) (hit : Bool) (rx : BitVec 3) (tx : BitVec 2) :
    Word :=
  0#18 ++ err ++ result ++ count ++ BitVec.ofBool hit ++ rx ++ tx

theorem statusWord_eq (s : State) : statusWord s
    = statusLayout s.rxErr.code s.cmdResult.code (holdCount s) s.crcMatch s.rxPhase.code s.txPhase.code := rfl

variable (err : BitVec 2) (result : BitVec 4) (count : BitVec 2) (hit : Bool) (rx : BitVec 3) (tx : BitVec 2)

theorem statusLayout_tx : (statusLayout err result count hit rx tx).extractLsb' 0 2 = tx := by
  apply BitVec.eq_of_getLsbD_eq
  intro i hi
  simp only [statusLayout, BitVec.getLsbD_extractLsb', BitVec.getLsbD_append, hi, decide_true, Bool.true_and]
  rw [if_pos (by omega)]
  congr 1; omega

theorem statusLayout_rx : (statusLayout err result count hit rx tx).extractLsb' 2 3 = rx := by
  apply BitVec.eq_of_getLsbD_eq
  intro i hi
  simp only [statusLayout, BitVec.getLsbD_extractLsb', BitVec.getLsbD_append, hi, decide_true, Bool.true_and]
  rw [if_neg (by omega), if_pos (by omega)]
  congr 1; omega

theorem statusLayout_hit : (statusLayout err result count hit rx tx).getLsbD 5 = hit := by
  simp only [statusLayout, BitVec.getLsbD_append]
  cases hit <;> rfl

theorem statusLayout_count : (statusLayout err result count hit rx tx).extractLsb' 6 2 = count := by
  apply BitVec.eq_of_getLsbD_eq
  intro i hi
  simp only [statusLayout, BitVec.getLsbD_extractLsb', BitVec.getLsbD_append, hi, decide_true, Bool.true_and]
  rw [if_neg (by omega), if_neg (by omega), if_neg (by omega), if_pos (by omega)]
  congr 1; omega

theorem statusLayout_result : (statusLayout err result count hit rx tx).extractLsb' 8 4 = result := by
  apply BitVec.eq_of_getLsbD_eq
  intro i hi
  simp only [statusLayout, BitVec.getLsbD_extractLsb', BitVec.getLsbD_append, hi, decide_true, Bool.true_and]
  rw [if_neg (by omega), if_neg (by omega), if_neg (by omega), if_neg (by omega), if_pos (by omega)]
  congr 1; omega

theorem statusLayout_err : (statusLayout err result count hit rx tx).extractLsb' 12 2 = err := by
  apply BitVec.eq_of_getLsbD_eq
  intro i hi
  simp only [statusLayout, BitVec.getLsbD_extractLsb', BitVec.getLsbD_append, hi, decide_true, Bool.true_and]
  rw [if_neg (by omega), if_neg (by omega), if_neg (by omega), if_neg (by omega), if_neg (by omega),
    if_pos (by omega)]
  congr 1; omega

theorem statusLayout_zero : (statusLayout err result count hit rx tx).extractLsb' 14 18 = 0 := by
  apply BitVec.eq_of_getLsbD_eq
  intro i hi
  simp only [statusLayout, BitVec.getLsbD_extractLsb', BitVec.getLsbD_append, hi, decide_true, Bool.true_and]
  rw [if_neg (by omega), if_neg (by omega), if_neg (by omega), if_neg (by omega), if_neg (by omega),
    if_neg (by omega)]
  simp

end Sys2Proof.Machine
end

