-- ==== Sys2Proof/Laws/Ops.lean ====
section
/-! SUPPORT. What each shared operation of the commands can do, said once: the delay line (42_decoder.md R123), the
terminator (R127), the FIFO room of a push (41_encoder.md R103, R104). -/

namespace Sys2Proof.Machine

@[simp] theorem reject_eq (c : CmdResult) (s : State) : reject c s = .next { s with cmdResult := c } := rfl

@[simp] theorem complete_eq (s : State) : complete s = .next { s with cmdResult := .ok } := rfl

/-- With other than two bytes held, a decoded byte joins the delay line. -/
theorem rxTake_hold {s : State} (h : s.rxHold.length ≠ 2) (x : Byte) :
    rxTake x s = some { s with rxHold := s.rxHold ++ [x] } := by
  unfold rxTake
  split
  · rename_i c d hcd; rw [hcd] at h; simp at h
  · rfl

/-- With two bytes held and room in RX_FIFO, the older is committed. -/
theorem rxTake_commit {s : State} {c h : Byte} (hh : s.rxHold = [c, h]) (hroom : s.rxFifo.length ≠ s.params.rxCap)
    (x : Byte) : rxTake x s = some { s with
      rxHold := [h, x]
      rxFifo := s.rxFifo ++ [c]
      rxAcc := crcStep s.rxAcc c
      rxLen := s.rxLen + 1 } := by
  simp only [rxTake, hh, hroom, if_false]; rfl

/-- With two bytes held and RX_FIFO full, nothing is taken. -/
theorem rxTake_full {s : State} {c h : Byte} (hh : s.rxHold = [c, h]) (hfull : s.rxFifo.length = s.params.rxCap)
    (x : Byte) : rxTake x s = none := by
  simp only [rxTake, hh, hfull, if_true]

/-- The three things the delay line can do. -/
theorem rxTake_cases (x : Byte) (s : State) :
    (s.rxHold.length ≠ 2 ∧ rxTake x s = some { s with rxHold := s.rxHold ++ [x] })
      ∨ (∃ c h, s.rxHold = [c, h] ∧ s.rxFifo.length = s.params.rxCap ∧ rxTake x s = none)
      ∨ (∃ c h, s.rxHold = [c, h] ∧ s.rxFifo.length ≠ s.params.rxCap ∧ rxTake x s = some { s with
          rxHold := [h, x]
          rxFifo := s.rxFifo ++ [c]
          rxAcc := crcStep s.rxAcc c
          rxLen := s.rxLen + 1 }) := by
  by_cases h2 : s.rxHold.length = 2
  · obtain ⟨c, h, hh⟩ := List.length_eq_two.mp h2
    by_cases hf : s.rxFifo.length = s.params.rxCap
    · exact .inr (.inl ⟨c, h, hh, hf, rxTake_full hh hf x⟩)
    · exact .inr (.inr ⟨c, h, hh, hf, rxTake_commit hh hf x⟩)
  · exact .inl ⟨h2, rxTake_hold h2 x⟩

/-- Fewer than two bytes held: SHORT_FRAME. -/
theorem rxTerminate_short {s : State} (h : s.rxHold.length < 2) : rxTerminate s = failRx .shortFrame s := by
  unfold rxTerminate
  split
  · rename_i hh; rw [hh] at h; simp at h
  · rfl

/-- Two bytes held: they are the received checksum, low byte first. -/
theorem rxTerminate_done {s : State} {lo hi : Byte} {rest : List Byte} (h : s.rxHold = lo :: hi :: rest) :
    rxTerminate s = { s with
      rxFcs := halfOfBytes lo hi
      crcMatch := fcsMatches (halfOfBytes lo hi) s.rxAcc
      rxHold := []
      rxPhase := .done } := by
  simp only [rxTerminate, h]

theorem rxTerminate_cases (s : State) :
    (s.rxHold.length < 2 ∧ rxTerminate s = failRx .shortFrame s)
      ∨ ∃ lo hi rest, s.rxHold = lo :: hi :: rest ∧ rxTerminate s = { s with
          rxFcs := halfOfBytes lo hi
          crcMatch := fcsMatches (halfOfBytes lo hi) s.rxAcc
          rxHold := []
          rxPhase := .done } := by
  rcases h : s.rxHold with _ | ⟨lo, _ | ⟨hi, rest⟩⟩
  · exact .inl ⟨by simp, rxTerminate_short (by simp [h])⟩
  · exact .inl ⟨by simp, rxTerminate_short (by simp [h])⟩
  · exact .inr ⟨lo, hi, rest, rfl, rxTerminate_done h⟩

/-- What taking a decoded byte can do to the machine: the byte held, a byte committed, or FULL. -/
theorem takeDecoded_cases (x : Byte) (s : State) :
    (s.rxHold.length ≠ 2
        ∧ takeDecoded x s = .next { s with rxHold := s.rxHold ++ [x], rxPhase := .data, cmdResult := .ok })
      ∨ (∃ c h, s.rxHold = [c, h] ∧ s.rxFifo.length = s.params.rxCap
          ∧ takeDecoded x s = .next { s with cmdResult := .full })
      ∨ (∃ c h, s.rxHold = [c, h] ∧ s.rxFifo.length ≠ s.params.rxCap ∧ takeDecoded x s = .next { s with
          rxHold := [h, x]
          rxFifo := s.rxFifo ++ [c]
          rxAcc := crcStep s.rxAcc c
          rxLen := s.rxLen + 1
          rxPhase := .data
          cmdResult := .ok }) := by
  rcases rxTake_cases x s with ⟨hh, ht⟩ | ⟨c, h, hh, hf, ht⟩ | ⟨c, h, hh, hf, ht⟩
  · exact .inl ⟨hh, by simp only [takeDecoded, ht]; rfl⟩
  · exact .inr (.inl ⟨c, h, hh, hf, by simp only [takeDecoded, ht]; rfl⟩)
  · exact .inr (.inr ⟨c, h, hh, hf, by simp only [takeDecoded, ht]; rfl⟩)

/-- The commands of the encoder, by phase and room. -/
theorem execTxByte_idle {s : State} (h : s.txPhase = .idle) (d : Byte) : execTxByte d s = reject .sequence s := by
  simp only [execTxByte, h]

theorem execTxByte_full {s : State} {d : Byte} (h : s.txPhase = .data) (hf : freeTx s < (escapeByte d).length) :
    execTxByte d s = reject .full s := by
  simp only [execTxByte, h, hf, if_true]

theorem execTxByte_push {s : State} {d : Byte} (h : s.txPhase = .data) (hf : (escapeByte d).length ≤ freeTx s) :
    execTxByte d s = .next { s with
      txFifo := s.txFifo ++ escapeByte d
      g := crcStep s.g d
      txLen := s.txLen + 1
      cmdResult := .ok } := by
  unfold execTxByte
  split
  · rename_i hi; rw [h] at hi; cases hi
  · rw [if_neg (Nat.not_lt.mpr hf)]; rfl

theorem execTxEnd_idle {s : State} (h : s.txPhase = .idle) : execTxEnd s = reject .sequence s := by
  simp only [execTxEnd, h]

theorem execTxEnd_full {s : State} (h : s.txPhase = .data) (hf : freeTx s < (frameTail s.g).length) :
    execTxEnd s = reject .full s := by
  simp only [execTxEnd, h, hf, if_true]

theorem execTxEnd_push {s : State} (h : s.txPhase = .data) (hf : (frameTail s.g).length ≤ freeTx s) :
    execTxEnd s = .next { s with txFifo := s.txFifo ++ frameTail s.g, txPhase := .idle, cmdResult := .ok } := by
  unfold execTxEnd
  split
  · rename_i hi; rw [h] at hi; cases hi
  · rw [if_neg (Nat.not_lt.mpr hf)]; rfl

end Sys2Proof.Machine
end

