-- ==== Sys2Proof/Laws/PerInstr.lean ====
section
/-! SUPPORT. Statements made of each command in turn. Family Encoding: the fields of a command's word are RSV = 0, the
opcode of R71 and the command's DATA (30_encoding.md R70, R73). -/

namespace Sys2Proof.Laws.Encoding

/-- The three fields of the command's word. -/
def Statement (i : Instr) : Prop :=
  rsvField (encode i) = 0 ∧ opField (encode i) = opcode i ∧ dataField (encode i) = operandByte i

theorem all_fields (i : Instr) : Statement i :=
  ⟨rsvField_append 0 _ _, opField_append 0 _ _, dataField_append 0 _ _⟩

theorem nop : Statement .nop := all_fields _
theorem crcInit : Statement .crcInit := all_fields _
theorem crcByte (d : Byte) : Statement (.crcByte d) := all_fields _
theorem txStart : Statement .txStart := all_fields _
theorem txByte (d : Byte) : Statement (.txByte d) := all_fields _
theorem txEnd : Statement .txEnd := all_fields _
theorem rxStart : Statement .rxStart := all_fields _
theorem rxByte (d : Byte) : Statement (.rxByte d) := all_fields _
theorem rxEnd : Statement .rxEnd := all_fields _
theorem softReset : Statement .softReset := all_fields _

end Sys2Proof.Laws.Encoding
end

