-- ==== Sys2Proof/Tests/Slice0.lean ====
section
/-! SUPPORT. The model's own tests. Expected values are the spec's: its encodings (30_encoding.md R71), its vectors
(95_test_vectors.md V<n>, W<n>, P<n>) and its rules. After them, for every statement with hypotheses, a concrete state and
operands that meet them. -/

namespace Sys2Proof.Tests

open Sys2Proof Sys2Proof.Machine

/-! ## Small states -/

/-- An encoder frame is open, with these bytes queued and this capacity. -/
def txOpen (cap : Nat) (fifo : List Byte) : State :=
  { State.reset with txPhase := .data, txFifo := fifo, params := { base := 0, txCap := cap, rxCap := 1 } }

/-- The decoder in this phase with these bytes held and committed, RX_CAP = 1. -/
def rxIn (phase : RxPhase) (hold fifo : List Byte) : State :=
  { State.reset with
    rxPhase := phase, rxHold := hold, rxFifo := fifo, params := { base := 0, txCap := 5, rxCap := 1 } }

/-- After reset, the host is about to make this access. -/
def about (a : Access) : State := { State.reset with pending := [.access a] }

/-- A read or a write of any width at an address. -/
def accessAt (addr size : Nat) (d : Direction) : Access := { addr := addr, size := size, lanes := 0xF, direction := d }

/-- STATUS after a command, a step or an access. -/
def statusAfter (r : Result) : Option Word :=
  match r with
  | .next t => some (statusWord t)
  | .fault _ => none
  | .refused _ => none

/-- CRC, TXCOUNT, RXCOUNT and RXCRC after it. -/
def countsAfter (r : Result) : Option (List Word) :=
  match r with
  | .next t => some [crcWord t, txCountWord t, rxCountWord t, rxCrcWord t]
  | .fault _ => none
  | .refused _ => none

/-- TX_FIFO after it. -/
def txAfter (r : Result) : Option (List Byte) :=
  match r with
  | .next t => some t.txFifo
  | .fault _ => none
  | .refused _ => none

/-- What the program has observed after it. -/
def observedAfter (r : Result) : Option (List Word) :=
  match r with
  | .next t => some t.observed
  | .fault _ => none
  | .refused _ => none

/-! ## Well-formedness: each check accepts its boundary and refuses an ill-formed term -/

theorem test_word_legal : wordWellFormed 0x000011FF = true ∧ wordWellFormed 0x0000FF00 = true := by decide
theorem test_word_rsv_refused : wordWellFormed 0x00010000 = false ∧ wordWellFormed 0x80001141 = false := by decide
theorem test_word_opcode_refused : wordWellFormed 0x00000300 = false ∧ wordWellFormed 0x0000FE00 = false := by decide
theorem test_word_data_refused : wordWellFormed 0x00000101 = false ∧ wordWellFormed 0x0000FF01 = false := by decide
theorem test_params_bounds :
    Params.WellFormed { base := 0x40, txCap := 5, rxCap := 1 }
      ∧ Params.WellFormed { base := 0, txCap := 65535, rxCap := 65535 } := by decide
theorem test_params_base_refused : ¬ Params.WellFormed { base := 0x10, txCap := 5, rxCap := 1 } := by decide
theorem test_params_txcap_refused :
    ¬ Params.WellFormed { base := 0, txCap := 4, rxCap := 1 }
      ∧ ¬ Params.WellFormed { base := 0, txCap := 65536, rxCap := 1 } := by decide
theorem test_params_rxcap_refused :
    ¬ Params.WellFormed { base := 0, txCap := 5, rxCap := 0 }
      ∧ ¬ Params.WellFormed { base := 0, txCap := 5, rxCap := 65536 } := by decide
theorem test_line_value_refused :
    Line.wellFormed (.write .cmd 0xFFFFFFFF) = true ∧ Line.wellFormed (.write .cmd 0x100000000) = false
      ∧ Line.wellFormed (.readExpecting .crc 0x100000000) = false := by decide
theorem test_line_byte_refused :
    Line.wellFormed (.byte .txByte 255) = true ∧ Line.wellFormed (.byte .txByte 256) = false := by decide
theorem test_line_list_refused :
    Line.wellFormed (.crc16 [0, 256]) = false ∧ Line.wellFormed (.encode [256]) = false
      ∧ Line.wellFormed (.decode [1, 300]) = false := by decide

/-! ## Decoding: every command's word, bit by bit from R70 and R71 (RSV, OP, DATA) -/

theorem test_decode_nop : decodeWord 0b0000000000000000_00000000_00000000 = .ok .nop := by rfl
theorem test_decode_crc_init : decodeWord 0b0000000000000000_00000001_00000000 = .ok .crcInit := by rfl
theorem test_decode_crc_byte : decodeWord 0b0000000000000000_00000010_10000001 = .ok (.crcByte 0x81) := by rfl
theorem test_decode_tx_start : decodeWord 0b0000000000000000_00010000_00000000 = .ok .txStart := by rfl
theorem test_decode_tx_byte : decodeWord 0b0000000000000000_00010001_01111110 = .ok (.txByte 0x7E) := by rfl
theorem test_decode_tx_end : decodeWord 0b0000000000000000_00010010_00000000 = .ok .txEnd := by rfl
theorem test_decode_rx_start : decodeWord 0b0000000000000000_00100000_00000000 = .ok .rxStart := by rfl
theorem test_decode_rx_byte : decodeWord 0b0000000000000000_00100001_00000000 = .ok (.rxByte 0x00) := by rfl
theorem test_decode_rx_end : decodeWord 0b0000000000000000_00100010_00000000 = .ok .rxEnd := by rfl
theorem test_decode_soft_reset : decodeWord 0b0000000000000000_11111111_00000000 = .ok .softReset := by rfl

/-- V14, with the cause R72 meets first. -/
theorem test_decode_illegal :
    decodeWord 0x000003FF = .error .reservedOpcode ∧ decodeWord 0x0000FE00 = .error .reservedOpcode
      ∧ decodeWord 0x00001201 = .error .nonzeroData ∧ decodeWord 0x0000FF01 = .error .nonzeroData
      ∧ decodeWord 0x00011141 = .error .reservedField ∧ decodeWord 0xFFFFFFFF = .error .reservedField := by
  exact ⟨rfl, rfl, rfl, rfl, rfl, rfl⟩

theorem test_table_word :
    decodeTableWord 32 0x00001126 = some (.txByte 0x26) ∧ decodeTableWord 16 0x1200 = some .txEnd
      ∧ decodeTableWord 32 0x00000300 = none := by decide

/-! ## The CRC, the encoder and the decoder as functions -/

/-- V2. -/
theorem test_crc_step :
    crcStep 0xFFFF 0x26 = 0x4BB3 ∧ crcStep 0xFFFF 0xFF = 0x00FF ∧ crcStep 0x0000 0x01 = 0x1189
      ∧ crcStep 0x0000 0x80 = 0x8408 ∧ crcStep 0x8408 0x00 = 0x8CCC := by decide
/-- V2's iterations 1, 4 and 7 of crc_step(0xFFFF, 0x26). -/
theorem test_crc_shift :
    crcShifts 1 0xFFD9 = 0xFBE4 ∧ crcShifts 4 0xFFD9 = 0x9B74 ∧ crcShifts 7 0xFFD9 = 0x9766 := by decide
/-- V1. -/
theorem test_crc16_check_string :
    crc16 [0x31, 0x32, 0x33, 0x34, 0x35, 0x36, 0x37, 0x38, 0x39] = 0x906E := by decide +kernel
/-- V6. -/
theorem test_escape :
    escapeByte 0x7D = [0x7D, 0x5D] ∧ escapeByte 0x7E = [0x7D, 0x5E] ∧ escapeByte 0x7C = [0x7C]
      ∧ escapeByte 0x7F = [0x7F] ∧ escapeByte 0x5E = [0x5E] := by decide
/-- V7. -/
theorem test_encode_frame :
    encodeFrame [0x7E, 0x7D, 0x01] = [0x7D, 0x5E, 0x7D, 0x5D, 0x01, 0x3A, 0x07, 0x7E]
      ∧ encodeFrame [0x1B, 0x00] = [0x1B, 0x00, 0x7D, 0x5E, 0x7D, 0x5E, 0x7E]
      ∧ encodeFrame [0x19] = [0x19, 0x38, 0x7D, 0x5D, 0x7E] ∧ encodeFrame [] = [0x00, 0x00, 0x7E] := by
  decide +kernel
/-- V11. -/
theorem test_decode_frame_ok :
    decodeFrame [0x26, 0x4C, 0xB5, 0x7E] = .ok [0x26] 0xB54C
      ∧ decodeFrame [0x41, 0x42, 0x7D, 0x7E, 0x7E] = .ok [0x41] 0x5E42
      ∧ decodeFrame [0x7D, 0x5E, 0x7D, 0x5D, 0x01, 0x3A, 0x07, 0x7E, 0x55] = .ok [0x7E, 0x7D, 0x01] 0x073A := by decide
/-- V11. -/
theorem test_decode_frame_fail :
    decodeFrame [] = .fail .noTerminator ∧ decodeFrame [0x41, 0x7D] = .fail .noTerminator
      ∧ decodeFrame [0x41, 0x7E] = .fail .shortFrame ∧ decodeFrame [0x7D, 0x7E, 0x7E] = .fail .shortFrame := by decide
/-- R60, R61: lane 0 is the low byte of a word, and the low checksum byte goes first. -/
theorem test_byte_order :
    laneOf 0x44332211 0 = 0x11 ∧ laneOf 0x44332211 3 = 0x44 ∧ wordOfLanes 0x11 0x22 0x33 0x44 = 0x44332211
      ∧ fcsBytes 0xB44C = [0x4C, 0xB4] ∧ halfOfBytes 0x4C 0xB4 = 0xB44C := by decide

/-! ## One step of each command -/

/-- V15 row 1: NOP clears ILLEGAL; row 3: it leaves a decoder failure. -/
theorem test_nop :
    statusAfter (exec .nop { State.reset with cmdResult := .illegal }) = some 0x00000000
      ∧ statusAfter (exec .nop { rxIn .fail [] [] with rxErr := .noTerminator }) = some 0x00001010 := by decide
/-- V4 row 3; V5 row 3: the frame's G is protected. -/
theorem test_crc_init :
    countsAfter (exec .crcInit { State.reset with g := 0x4BB3 }) = some [0x0000FFFF, 0, 0, 0]
      ∧ countsAfter (exec .crcInit { txOpen 5 [] with g := 0x4BB3 }) = some [0xB44C4BB3, 0, 0, 0] := by decide
/-- V4 rows 1 and 4; V5 row 2. -/
theorem test_crc_byte :
    countsAfter (exec (.crcByte 0x26) State.reset) = some [0xB44C4BB3, 0, 0, 0]
      ∧ countsAfter (exec (.crcByte 0x4D) { State.reset with g := 0x4BB3 }) = some [0xE1451EBA, 0, 0, 0]
      ∧ statusAfter (exec (.crcByte 0x01) (txOpen 5 [])) = some 0x00000201 := by decide
/-- V8: queued bytes of an earlier frame stay. -/
theorem test_tx_start :
    statusAfter (exec .txStart State.reset) = some 0x00000001
      ∧ txAfter (exec .txStart { State.reset with txFifo := [0x00, 0x00, 0x7E], txLen := 9 }) = some [0x00, 0x00, 0x7E]
      ∧ statusAfter (exec .txStart (txOpen 5 [])) = some 0x00000201 := by decide
/-- V9: an escape pair is pushed whole; the checksum is over the byte itself. -/
theorem test_tx_byte_escapes :
    txAfter (exec (.txByte 0x7E) (txOpen 5 [])) = some [0x7D, 0x5E]
      ∧ countsAfter (exec (.txByte 0x7E) (txOpen 5 [])) = some [0x6A81957E, 0x00010002, 0, 0]
      ∧ countsAfter (exec (.txByte 0x00) { txOpen 5 [] with txLen := 0xFFFF }) = some [0xF0780F87, 0x00000001, 0, 0] := by
  decide
/-- V9: FULL with one place free for an escape pair, OK for a plain byte; SEQUENCE outside a frame. -/
theorem test_tx_byte_full :
    statusAfter (exec (.txByte 0x7E) (txOpen 5 [1, 2, 3, 4])) = some 0x00000301
      ∧ txAfter (exec (.txByte 0x41) (txOpen 5 [1, 2, 3, 4])) = some [1, 2, 3, 4, 0x41]
      ∧ statusAfter (exec (.txByte 0x41) State.reset) = some 0x00000200 := by decide
/-- V10: data 60 and data 1B 00, with the accumulators V7 and V3 give. -/
theorem test_tx_end_pushes :
    txAfter (exec .txEnd { txOpen 5 [] with g := ~~~0x937E }) = some [0x7D, 0x5E, 0x93, 0x7E]
      ∧ txAfter (exec .txEnd { txOpen 5 [] with g := 0x8181 }) = some [0x7D, 0x5E, 0x7D, 0x5E, 0x7E] := by decide
/-- V10: FULL with 5 bytes of 5 queued; SEQUENCE in IDLE; the frame closes. -/
theorem test_tx_end_outcomes :
    statusAfter (exec .txEnd (txOpen 5 [1, 2, 3, 4, 5])) = some 0x00000301
      ∧ statusAfter (exec .txEnd State.reset) = some 0x00000200
      ∧ statusAfter (exec .txEnd (txOpen 5 [1, 2])) = some 0x00000000 := by decide
/-- V13: a new frame in any phase, RX_FIFO emptied. -/
theorem test_rx_start :
    statusAfter (exec .rxStart { rxIn .fail [] [0x41] with rxErr := .shortFrame }) = some 0x00000004
      ∧ countsAfter (exec .rxStart { rxIn .done [] [0x41] with rxLen := 1, rxFcs := 7, rxAcc := 0 })
          = some [0x0000FFFF, 0, 0, 0] := by decide
/-- V12's steps for 26 4C B4 7E: the third byte commits the first, the terminator compares. -/
theorem test_rx_byte_frame :
    countsAfter (exec (.rxByte 0xB4) (rxIn .data [0x26, 0x4C] [])) = some [0x0000FFFF, 0, 0x00010001, 0xB44C0000]
      ∧ statusAfter (exec (.rxByte 0x7E) { rxIn .data [0x4C, 0xB4] [0x26] with rxAcc := 0x4BB3, rxLen := 1 })
          = some 0x0000002C
      ∧ countsAfter (exec (.rxByte 0x7E) { rxIn .data [0x4C, 0xB5] [0x26] with rxAcc := 0x4BB3, rxLen := 1 })
          = some [0x0000FFFF, 0, 0x00010001, 0xB44CB54C] := by decide
/-- P3, V13, P7: an escape pair, FULL in DATA and in ESC, SEQUENCE, and 41 7E. -/
theorem test_rx_byte_phases :
    statusAfter (exec (.rxByte 0x7D) (rxIn .data [0x7E] [])) = some 0x00000048
      ∧ statusAfter (exec (.rxByte 0x44) (rxIn .data [0x42, 0x43] [0x41])) = some 0x00000384
      ∧ statusAfter (exec (.rxByte 0x5E) (rxIn .esc [0x42, 0x43] [0x41])) = some 0x00000388
      ∧ statusAfter (exec (.rxByte 0x01) State.reset) = some 0x00000200
      ∧ statusAfter (exec (.rxByte 0x7E) (rxIn .data [0x41] [])) = some 0x00002010 := by decide
/-- W4, V12 (41 7D), V13. -/
theorem test_rx_end :
    statusAfter (exec .rxEnd (rxIn .data [0x42, 0x43] [0x41])) = some 0x00001010
      ∧ statusAfter (exec .rxEnd (rxIn .esc [0x41] [])) = some 0x00001010
      ∧ statusAfter (exec .rxEnd { rxIn .done [] [] with crcMatch := true }) = some 0x0000002C
      ∧ statusAfter (exec .rxEnd State.reset) = some 0x00000200 := by decide
/-- V15 rows 4 and 5: the word 0x0000FF01 is no reset. -/
theorem test_soft_reset :
    countsAfter (exec .softReset { txOpen 5 [0x41] with g := 0x5C0A, txLen := 1 }) = some [0x0000FFFF, 0, 0, 0]
      ∧ statusAfter (writeReg .cmd 0x0000FF01 (txOpen 5 [])) = some 0x00000101 := by decide

/-! ## One step of each kind of access, and of the other events -/

/-- V16 row 4 and row 5. -/
theorem test_ignored_writes :
    step (about (accessAt 0x04 4 (.write 0xFFFFFFFF))) = .next State.reset
      ∧ step (about (accessAt 0x0C 4 (.write 0x0000017E))) = .next State.reset := by exact ⟨rfl, rfl⟩
/-- V16 rows 6, 7 and 8; and all four lanes are needed. -/
theorem test_bus_errors :
    step (about (accessAt 0x04 1 .read)) = .fault .busError
      ∧ step (about (accessAt 0x02 2 (.write 0x1000))) = .fault .busError
      ∧ step (about (accessAt 0x06 4 .read)) = .fault .busError
      ∧ step (about { addr := 0x04, size := 4, lanes := 0x7, direction := .read }) = .fault .busError := by
  exact ⟨rfl, rfl, rfl, rfl⟩
/-- V16 rows 1 and 9. -/
theorem test_txout_pops :
    observedAfter (step (about (accessAt 0x0C 4 .read))) = some [0x00000000]
      ∧ observedAfter (step { about (accessAt 0x0C 4 .read) with txFifo := [0x7E] }) = some [0x0000017E]
      ∧ txAfter (step { about (accessAt 0x0C 4 .read) with txFifo := [0x00, 0x7E] }) = some [0x7E] := by decide
/-- P4: RXOUT of an empty FIFO, and V13's read of 41. -/
theorem test_rxout_pops :
    observedAfter (step (about (accessAt 0x10 4 .read))) = some [0x00000000]
      ∧ observedAfter (step { about (accessAt 0x10 4 .read) with rxFifo := [0x41] }) = some [0x00000141] := by decide
/-- V14, and V15 row 5's word as a step. -/
theorem test_illegal_word_step :
    statusAfter (step (about (accessAt 0x00 4 (.write 0x00011141)))) = some 0x00000100
      ∧ statusAfter (step (about (accessAt 0x00 4 (.write 0x00000300)))) = some 0x00000100 := by decide
/-- The window's edges (R50), the reset pin (R172), a second master (R163). -/
theorem test_refusals :
    step (about (accessAt 0x20 4 .read)) = .refused .outsideWindow
      ∧ step { about (accessAt 0x1C 4 .read) with rstN := false } = .refused .accessDuringReset
      ∧ step { State.reset with pending := [.foreign (accessAt 0x04 4 .read)] } = .refused .secondMaster := by
  exact ⟨rfl, rfl, rfl⟩
/-- R170, R174. -/
theorem test_reset_pin :
    step { txOpen 5 [0x41] with pending := [.resetLow] }
        = .next { State.reset with rstN := false, params := { base := 0, txCap := 5, rxCap := 1 } }
      ∧ step { State.reset with rstN := false, pending := [.resetHigh] } = .next State.reset := by exact ⟨rfl, rfl⟩
/-- A drain goes on after a byte and ends after VALID = 0 (R81). -/
theorem test_drain_step :
    step { State.reset with txFifo := [0x7E], pending := [.drainTx] }
        = .next { State.reset with pending := [.drainTx], observed := [0x0000017E] }
      ∧ step { State.reset with pending := [.drainRx] } = .next { State.reset with observed := [0x00000000] } := by
  exact ⟨rfl, rfl⟩
/-- withFetchWord: the very next step runs the word. -/
theorem test_fetch_word :
    step (State.reset.withFetchWord 32 0x00001000) = .next { State.reset with txPhase := .data } := by rfl
/-- P1's first two lines, and a byte that is an assembly error (R80, R81). -/
theorem test_assemble :
    assemble Params.default [.plain .crcInit, .byte .crcByte 0x31]
        = some [.access (accessAt 0 4 (.write 0x00000100)), .access (accessAt 0 4 (.write 0x00000231))]
      ∧ assemble Params.default [.byte .crcByte 256] = none := by decide

/-! ## Witnesses: for each statement with hypotheses, values that meet them together, one for each clause -/

theorem witness_BothResetSourcesGiveResetValues :
    { txOpen 5 [0x41] with pending := [HostEvent.resetLow] }.pending = [.resetLow] := by rfl
theorem witness_OpcodeMapDecodes :
    (0xFF : Byte) ∈ [0x00, 0x01, 0x10, 0x12, 0x20, 0x22, (0xFF : Byte)] ∧ (0x01 : Byte) ≠ 0
      ∧ (0x03 : Byte) ∉ [0x00, 0x01, 0x02, 0x10, 0x11, 0x12, 0x20, 0x21, 0x22, (0xFF : Byte)]
      ∧ (0xFE : Byte) ∉ [0x00, 0x01, 0x02, 0x10, 0x11, 0x12, 0x20, 0x21, 0x22, (0xFF : Byte)] := by decide
theorem witness_DecodeAgreesWithEncode :
    Instr.wellFormed (.rxByte 0xFF) = true ∧ decodeWord 0x000021FF = .ok (.rxByte 0xFF) := by exact ⟨rfl, rfl⟩
theorem witness_LegalWordsNumber775 (plain byte : List Word)
    (hp : ∀ w, w ∈ plain ↔ (∃ i, decodeWord w = .ok i) ∧ opField w ∈ datalessOpcodes)
    (hb : ∀ w, w ∈ byte ↔ (∃ i, decodeWord w = .ok i) ∧ opField w ∈ byteOpcodes) :
    (0x00010000 : Word) ∉ plain ++ byte := by
  have hn : ¬ ∃ i, decodeWord 0x00010000 = .ok i := fun ⟨_, h⟩ => nomatch h
  rw [List.mem_append, hp, hb]
  exact fun h => h.elim (fun h => hn h.1) (fun h => hn h.1)
/-- One for each of R74's three causes. -/
theorem witness_IllegalWordChangesOnlyResult :
    (about (writeAccess Params.default .cmd (0x8000#16 ++ 0x11#8 ++ 0x41#8))).pending
        = [.access (writeAccess Params.default .cmd (0x8000#16 ++ 0x11#8 ++ 0x41#8))]
      ∧ State.reset.rstN = true ∧ (0x8000 : Half) ≠ 0
      ∧ (0x13 : Byte) ∉ [0x00, 0x01, 0x02, 0x10, 0x11, 0x12, 0x20, 0x21, 0x22, (0xFF : Byte)]
      ∧ (0xFF : Byte) ∈ [0x00, 0x01, 0x10, 0x12, 0x20, 0x22, (0xFF : Byte)] ∧ (0x01 : Byte) ≠ 0 := by decide
theorem witness_StepRunsDecodedCommand :
    (about (writeAccess Params.default .cmd 0x00002000)).pending
        = [.access (writeAccess (about (writeAccess Params.default .cmd 0x00002000)).params .cmd 0x00002000)]
      ∧ State.reset.rstN = true ∧ decodeWord 0x00002000 = .ok .rxStart := by exact ⟨rfl, rfl, rfl⟩
theorem witness_FetchedWordRunsNext : decodeTableWord 32 0x000002FF = some (.crcByte 0xFF) := by rfl
/-- The illegal neighbours of a data-less word (NopRule, CrcInitRule, TxStartRule, TxEndRule, RxStartRule, RxEndRule,
SoftResetRule) and of a word with a byte. -/
theorem witness_Encodings : ((0x0001 : Half) ≠ 0 ∨ (0x00 : Byte) ≠ 0) ∧ ((0x0000 : Half) ≠ 0 ∨ (0xFF : Byte) ≠ 0) := by
  decide
/-- Both phases, for CrcInitRule, CrcByteRule and TxStartRule. -/
theorem witness_TxPhases : State.reset.txPhase = .idle ∧ (txOpen 5 []).txPhase = .data := by decide
/-- The three kinds of byte; FULL and OK at one place and at two places free. -/
theorem witness_TxByteRule :
    (0x7D : Byte) = 0x7D ∧ (0x7E : Byte) = 0x7E ∧ (0x5D : Byte) ≠ 0x7D ∧ (0x5D : Byte) ≠ 0x7E
      ∧ (txOpen 5 [1, 2, 3, 4]).txPhase = .data ∧ State.reset.txPhase = .idle
      ∧ (txOpen 5 [1, 2, 3, 4]).params.txCap - (txOpen 5 [1, 2, 3, 4]).txFifo.length < ([0x7D, 0x5E] : List Byte).length
      ∧ ([0x5D] : List Byte).length ≤ (txOpen 5 [1, 2, 3, 4]).params.txCap - (txOpen 5 [1, 2, 3, 4]).txFifo.length
      ∧ ([0x7D, 0x5D] : List Byte).length ≤ (txOpen 5 [1, 2, 3]).params.txCap - (txOpen 5 [1, 2, 3]).txFifo.length := by
  decide
/-- G = 0xFFFF needs three places: two are FULL, three are OK. -/
theorem witness_TxEndRule :
    [0x00, 0x00, 0x7E]
        = escapeByte ((~~~(txOpen 5 []).g).extractLsb' 0 8) ++ escapeByte ((~~~(txOpen 5 []).g).extractLsb' 8 8) ++ [0x7E]
      ∧ (txOpen 5 [1, 2, 3]).params.txCap - (txOpen 5 [1, 2, 3]).txFifo.length < ([0x00, 0x00, 0x7E] : List Byte).length
      ∧ ([0x00, 0x00, 0x7E] : List Byte).length ≤ (txOpen 5 [1, 2]).params.txCap - (txOpen 5 [1, 2]).txFifo.length
      ∧ (txOpen 5 [1, 2]).txPhase = .data ∧ State.reset.txPhase = .idle := by decide
/-- Every phase, for RxBytePhaseRule and RxEndRule. -/
theorem witness_RxPhases :
    State.reset.rxPhase = .idle ∧ (rxIn .data [] []).rxPhase = .data ∧ (rxIn .esc [] []).rxPhase = .esc
      ∧ (rxIn .done [] []).rxPhase = .done ∧ (rxIn .fail [] []).rxPhase = .fail ∧ (0x7D : Byte) = 0x7D := by decide
/-- A plain byte with one held, an escaped 0x7E with two held, RX_FIFO full and not full. -/
theorem witness_RxByteTakesDecodedByte :
    (rxIn .data [0x41] []).rxPhase = .data ∧ (0x42 : Byte) ≠ 0x7D ∧ (0x42 : Byte) ≠ 0x7E
      ∧ (rxIn .data [0x41] []).rxHold.length < 2
      ∧ (rxIn .esc [0x41, 0x42] []).rxPhase = .esc ∧ (0x7E : Byte) = 0x5E ^^^ 0x20
      ∧ (rxIn .esc [0x41, 0x42] []).rxHold = [0x41, 0x42]
      ∧ (rxIn .esc [0x41, 0x42] []).rxFifo.length ≠ (rxIn .esc [0x41, 0x42] []).params.rxCap
      ∧ (rxIn .esc [0x41, 0x42] [0x40]).rxFifo.length = (rxIn .esc [0x41, 0x42] [0x40]).params.rxCap := by decide
theorem witness_RxByteTerminatorRule :
    (rxIn .data [0x41] []).rxPhase = .data ∧ (rxIn .data [0x41] []).rxHold.length < 2
      ∧ (rxIn .data [0x4C, 0xB4] []).rxPhase = .data ∧ (rxIn .data [0x4C, 0xB4] []).rxHold = [0x4C, 0xB4] := by decide
/-- An illegal word, for a rejection's effect. -/
theorem witness_RejectionChangesOnlyResult :
    writeReg .cmd 0x00000300 State.reset = .next { State.reset with cmdResult := .illegal }
      ∧ ({ State.reset with cmdResult := .illegal } : State).cmdResult ≠ .ok := by exact ⟨rfl, by decide⟩
/-- Both causes of a decoder failure. -/
theorem witness_DecoderFailureCausesAndEffect :
    exec .rxEnd (rxIn .esc [0x41] [0x40]) = .next { rxIn .fail [] [0x40] with rxErr := .noTerminator }
      ∧ exec (.rxByte 0x7E) (rxIn .data [0x41] []) = .next { rxIn .fail [] [] with rxErr := .shortFrame }
      ∧ (rxIn .esc [0x41] [0x40]).rxPhase ≠ .fail ∧ (rxIn .data [0x41] []).rxPhase ≠ .fail := by
  exact ⟨rfl, rfl, by decide, by decide⟩
theorem witness_DecoderFailurePersists :
    (rxIn .fail [] [0x41]).rxPhase = .fail ∧ Instr.rxByte 0x7E ≠ .rxStart ∧ Instr.rxByte 0x7E ≠ .softReset := by decide
theorem witness_OnlyNamedCommandsWriteG :
    exec (.txByte 0x26) (txOpen 5 []) = .next { txOpen 5 [0x26] with g := 0x4BB3, txLen := 1 }
      ∧ ({ txOpen 5 [0x26] with g := 0x4BB3, txLen := 1 } : State).g ≠ (txOpen 5 []).g := by exact ⟨rfl, by decide⟩
theorem witness_EnginesAreIndependent :
    Instr.txStart ≠ .softReset ∧ exec .txStart State.reset = .next { State.reset with txPhase := .data } := by
  exact ⟨by decide, rfl⟩
theorem witness_ParametersNeverChange :
    step (State.reset.withFetchWord 32 0x00002000) = .next { State.reset with rxPhase := .data } := by rfl
/-- A finished frame meets the invariants (StepKeepsInvariant, RxcrcHalvesEqualIffMatch). -/
theorem witness_Inv :
    Inv { rxIn .done [] [0x26] with rxLen := 1, rxAcc := 0x4BB3, rxFcs := 0xB44C, crcMatch := true }
      ∧ step { rxIn .done [] [0x26] with rxLen := 1, rxAcc := 0x4BB3, rxFcs := 0xB44C, crcMatch := true, pending := [.drainRx] }
          = .next { rxIn .done [] [] with
              rxLen := 1, rxAcc := 0x4BB3, rxFcs := 0xB44C, crcMatch := true
              pending := [.drainRx], observed := [0x00000126] } :=
  ⟨⟨by decide, by decide, by decide, by decide, by decide, by decide, by decide, by decide⟩, rfl⟩
theorem witness_BlockHeldInReset :
    BlockReset { State.reset with rstN := false, pending := [.resetLow] }
      ∧ step { State.reset with rstN := false, pending := [.resetLow] } = .next { State.reset with rstN := false } :=
  ⟨⟨rfl, rfl, rfl, rfl, rfl, rfl, rfl, rfl, rfl, rfl, rfl, rfl, rfl⟩, rfl⟩
/-- The first and the last register of the window. -/
theorem witness_StateRegistersReadLayouts :
    (about (readAccess Params.default .cmd)).pending = [.access (readAccess Params.default .cmd)]
      ∧ (about (readAccess Params.default .rxcrc)).pending = [.access (readAccess Params.default .rxcrc)]
      ∧ (about (readAccess Params.default .cmd)).rstN = true
      ∧ (0x0000FFFF : Word) = ~~~State.reset.g ++ State.reset.g ∧ (0 : Word) = ~~~State.reset.rxAcc ++ State.reset.rxFcs
      ∧ (0 : Word) = State.reset.txLen ++ BitVec.ofNat 16 State.reset.txFifo.length
      ∧ (0 : Word) = State.reset.rxLen ++ BitVec.ofNat 16 State.reset.rxFifo.length
      ∧ (0 : Word) = statusWord State.reset := by decide
theorem witness_StatusFieldsShowState :
    0x0000002C = (readReg .status { rxIn .done [] [] with crcMatch := true }).1
      ∧ (rxIn .data [1, 2] []).rxHold.length ≤ 2 := by decide
theorem witness_OutRegistersPop :
    State.reset.rstN = true
      ∧ (about (readAccess Params.default .txout)).pending = [.access (readAccess Params.default .txout)]
      ∧ (about (readAccess Params.default .rxout)).pending = [.access (readAccess Params.default .rxout)]
      ∧ State.reset.txFifo = [] ∧ (txOpen 5 [0x41]).txFifo = [0x41]
      ∧ State.reset.rxFifo = [] ∧ (rxIn .data [] [0x41]).rxFifo = [0x41] := by decide
theorem witness_ReadOnlyWritesIgnored :
    State.reset.rstN = true ∧ Reg.status ≠ .cmd
      ∧ (about (writeAccess Params.default .status 0xFFFFFFFF)).pending
          = [.access (writeAccess Params.default .status 0xFFFFFFFF)] := by decide
/-- k = 0 and k = 7. -/
theorem witness_EveryAcceptedAccessCompletes :
    State.reset.rstN = true ∧ 0 < 8 ∧ 7 < 8
      ∧ (about (accessAt 0x00 4 (.write 0xFFFFFFFF))).pending
          = [.access (accessAt (State.reset.params.base + 4 * 0) 4 (.write 0xFFFFFFFF))]
      ∧ (about (accessAt 0x1C 4 .read)).pending = [.access (accessAt (State.reset.params.base + 4 * 7) 4 .read)] := by
  decide
/-- The first and the last address of the window, and each way not to be accepted. -/
theorem witness_UnacceptedAccessIsBusError :
    State.reset.params.WellFormed ∧ State.reset.rstN = true
      ∧ State.reset.params.base ≤ (accessAt 0x00 2 .read).addr ∧ (accessAt 0x00 2 .read).size ≠ 4
      ∧ (accessAt 0x1F 4 .read).addr < State.reset.params.base + 0x20 ∧ (accessAt 0x1F 4 .read).addr % 4 ≠ 0
      ∧ ({ accessAt 0x04 4 .read with lanes := 0x1 } : Access).lanes ≠ 0xF := by decide
/-- Just below a window at 0x20, just above it, its first and last address. -/
theorem witness_AccessesOutsideTheModelRefused :
    (accessAt 0x1C 4 .read).addr + (accessAt 0x1C 4 .read).size ≤ 0x20
      ∧ 0x20 + 0x20 ≤ (accessAt 0x40 4 .read).addr ∧ 1 ≤ (accessAt 0x40 4 .read).size
      ∧ 0x20 ≤ (accessAt 0x20 4 .read).addr ∧ (accessAt 0x3F 1 .read).addr < 0x20 + 0x20
      ∧ ({ State.reset with rstN := false } : State).rstN = false
      ∧ ({ State.reset with pending := [.foreign (accessAt 0x20 4 .read)] } : State).pending
          = [.foreign (accessAt 0x20 4 .read)] := by decide
theorem witness_IdleStepKeepsState : State.reset.pending = [] := by rfl
theorem witness_HiddenBytesNotRead :
    ([3, 4] : List Byte).length = (rxIn .data [1, 2] []).rxHold.length
      ∧ ([1, 9] : List Byte).length = (txOpen 5 [1, 2]).txFifo.length
      ∧ ([1, 9] : List Byte).head? = (txOpen 5 [1, 2]).txFifo.head? := by decide
theorem witness_NonCommandAccessKeepsEngines :
    { about (readAccess Params.default .txout) with txFifo := [0x7E] }.pending
        = [.access (readAccess Params.default .txout)]
      ∧ (∀ v, readAccess Params.default .txout ≠ writeAccess Params.default .cmd v)
      ∧ step { about (readAccess Params.default .txout) with txFifo := [0x7E] }
          = .next { State.reset with observed := [0x0000017E] } :=
  ⟨rfl, (fun _ h => nomatch (congrArg Access.direction h)), rfl⟩
theorem witness_CrcCommandsComputeCrc16 :
    State.reset.txPhase = .idle
      ∧ acceptedRun (crc16Commands [0x26]) State.reset = some { State.reset with g := 0x4BB3 } := by decide
theorem witness_ByteChangeChangesCrc : (0x00 : Byte) ≠ 0x01 := by decide
/-- A run without a rejection, and a host that meets FULL, reads a byte out and writes TX_END again. -/
theorem witness_EncoderProducesFrame :
    State.reset.txPhase = .idle
      ∧ acceptedRun (encodeCommands []) State.reset = some { State.reset with txFifo := [0x00, 0x00, 0x7E] }
      ∧ ({ txOpen 5 [1, 2, 3] with txPhase := .idle } : State).txPhase = .idle
      ∧ Feeds .txout (encodeCommands []) { txOpen 5 [1, 2, 3] with txPhase := .idle } [1]
          { txOpen 5 [2, 3, 0x00, 0x00, 0x7E] with txPhase := .idle } :=
  ⟨rfl, by decide, rfl, .accepted rfl rfl (.retried rfl rfl (.popped rfl (.accepted rfl rfl (.done _))))⟩
theorem witness_FrameLengthAndShape :
    encodeFrame [0x7D] = [] ++ 0x7D :: [0x5D, 0x1A, 0x58, 0x7E] := by rfl
theorem witness_TxRoomDecidesAcceptance :
    State.reset.txPhase = .idle ∧ (List.replicate 133 (0 : Byte)).length = 133 := by
  exact ⟨rfl, List.length_replicate⟩
/-- FULL at 44 with 41 committed and 42 43 held, RX_CAP = 1: the host reads 41 out and writes 44 again. -/
theorem feeds_full_tail (acc : Half) :
    Feeds .rxout [.rxByte 0x44, .rxByte 0x7E, .rxEnd] { rxIn .data [0x42, 0x43] [0x41] with rxLen := 1, rxAcc := acc }
      [0x41]
      { rxIn .done [] [0x42] with
        rxLen := 2, rxAcc := crcStep acc 0x42, rxFcs := 0x4443, crcMatch := fcsMatches 0x4443 (crcStep acc 0x42) } :=
  .retried rfl rfl (.popped rfl (.accepted rfl rfl (.accepted rfl rfl (.accepted rfl rfl (.done _)))))
/-- The whole stream 41 42 43 44 7E fed that way. -/
theorem witness_DecoderComputesDecode :
    exec .rxStart (rxIn .idle [] []) = .next (rxIn .data [] [])
      ∧ ∃ t, Feeds .rxout ([0x41, 0x42, 0x43, 0x44, 0x7E].map .rxByte ++ [.rxEnd]) (rxIn .data [] []) [0x41] t :=
  ⟨rfl, _, .accepted rfl rfl (.accepted rfl rfl (.accepted rfl rfl (feeds_full_tail (crcStep 0xFFFF 0x41))))⟩
theorem witness_RoundTrip :
    exec .rxStart (rxIn .idle [] []) = .next (rxIn .data [] [])
      ∧ Feeds .rxout ((encodeFrame [] ++ [0x55]).map .rxByte ++ [.rxEnd]) (rxIn .data [] []) []
          { rxIn .done [] [] with crcMatch := true } :=
  ⟨rfl, .accepted rfl rfl (.accepted rfl rfl (.accepted rfl rfl (.accepted rfl rfl (.accepted rfl rfl (.done _)))))⟩
theorem witness_BytesAfterTerminatorIgnored : decodeFrame [0x41, 0x7E] ≠ .fail .noTerminator := by decide
theorem witness_RxRoomDecidesAcceptance : decodeFrame [0x26, 0x4C, 0xB4, 0x7E] = .ok [0x26] 0xB44C := by decide
theorem witness_LinesAssemble : 256 ≤ 256 := by decide
theorem witness_DrainsEmptyTheFifos :
    State.reset.rstN = true ∧ ({ State.reset with pending := [.drainTx] } : State).pending = [.drainTx]
      ∧ ({ State.reset with pending := [.drainRx] } : State).pending = [.drainRx] := by decide

end Sys2Proof.Tests
end

section
/-! SUPPORT. What a command can do, said once: every command in every state answers a next state, and that state is one
of the effects below (40_crc.md, 41_encoder.md, 42_decoder.md, 43_control.md, R150, R152). -/

namespace Sys2Proof.Machine

/-- RX_BYTE d brings the decoded byte x: d itself in DATA, where it is no marker and no terminator, and d ^ 0x20 in ESC
(R124). -/
def DecodesTo (s : State) (d x : Byte) : Prop :=
  s.rxPhase = .data ∧ d ≠ 0x7D ∧ d ≠ 0x7E ∧ x = d ∨ s.rxPhase = .esc ∧ x = d ^^^ 0x20

/-- The effects of a command, each with the condition under which it happens. -/
inductive CommandEffect : Instr → State → State → Prop where
  | sequence {i s} (hseq : OutOfSequence i s) : CommandEffect i s { s with cmdResult := .sequence }
  | full {i s} (hseq : ¬ OutOfSequence i s) (hroom : NoRoom i s) : CommandEffect i s { s with cmdResult := .full }
  | nop {s} : CommandEffect .nop s { s with cmdResult := .ok }
  | crcInit {s} (hidle : s.txPhase = .idle) : CommandEffect .crcInit s { s with g := 0xFFFF, cmdResult := .ok }
  | crcByte {d s} (hidle : s.txPhase = .idle) :
      CommandEffect (.crcByte d) s { s with g := crcStep s.g d, cmdResult := .ok }
  | txStart {s} (hidle : s.txPhase = .idle) :
      CommandEffect .txStart s { s with g := 0xFFFF, txLen := 0, txPhase := .data, cmdResult := .ok }
  | txByte {d s} (hdata : s.txPhase = .data) (hroom : (escapeByte d).length ≤ freeTx s) :
      CommandEffect (.txByte d) s
        { s with txFifo := s.txFifo ++ escapeByte d, g := crcStep s.g d, txLen := s.txLen + 1, cmdResult := .ok }
  | txEnd {s} (hdata : s.txPhase = .data) (hroom : (frameTail s.g).length ≤ freeTx s) :
      CommandEffect .txEnd s { s with txFifo := s.txFifo ++ frameTail s.g, txPhase := .idle, cmdResult := .ok }
  | rxStart {s} :
      CommandEffect .rxStart s
        { s with
          rxPhase := .data, rxHold := [], rxFifo := [], rxLen := 0, rxAcc := 0xFFFF, rxFcs := 0, crcMatch := false
          rxErr := .none, cmdResult := .ok }
  | rxMarker {s} (hdata : s.rxPhase = .data) :
      CommandEffect (.rxByte 0x7D) s { s with rxPhase := .esc, cmdResult := .ok }
  | rxHeld {d x s} (hd : DecodesTo s d x) (hhold : s.rxHold.length ≠ 2) :
      CommandEffect (.rxByte d) s { s with rxHold := s.rxHold ++ [x], rxPhase := .data, cmdResult := .ok }
  | rxCommitted {d x c h s} (hd : DecodesTo s d x) (hhold : s.rxHold = [c, h])
      (hroom : s.rxFifo.length ≠ s.params.rxCap) :
      CommandEffect (.rxByte d) s
        { s with
          rxHold := [h, x], rxFifo := s.rxFifo ++ [c], rxAcc := crcStep s.rxAcc c, rxLen := s.rxLen + 1
          rxPhase := .data, cmdResult := .ok }
  | rxShort {s} (hdata : s.rxPhase = .data) (hhold : s.rxHold.length < 2) :
      CommandEffect (.rxByte 0x7E) s { failRx .shortFrame s with cmdResult := .ok }
  | rxDone {lo hi rest s} (hdata : s.rxPhase = .data) (hhold : s.rxHold = lo :: hi :: rest) :
      CommandEffect (.rxByte 0x7E) s
        { s with
          rxFcs := halfOfBytes lo hi, crcMatch := fcsMatches (halfOfBytes lo hi) s.rxAcc, rxHold := []
          rxPhase := .done, cmdResult := .ok }
  | rxByteIgnored {d s} (hover : s.rxPhase = .done ∨ s.rxPhase = .fail) :
      CommandEffect (.rxByte d) s { s with cmdResult := .ok }
  | rxUnterminated {s} (hopen : s.rxPhase = .data ∨ s.rxPhase = .esc) :
      CommandEffect .rxEnd s { failRx .noTerminator s with cmdResult := .ok }
  | rxEndIgnored {s} (hover : s.rxPhase = .done ∨ s.rxPhase = .fail) :
      CommandEffect .rxEnd s { s with cmdResult := .ok }
  | softReset {s} : CommandEffect .softReset s (resetState s)

/-- The outcome r of command i from s is a next state with one of i's effects. -/
def HasEffect (i : Instr) (s : State) (r : Result) : Prop := ∃ t, r = .next t ∧ CommandEffect i s t

theorem escapeByte_length (b : Byte) : (escapeByte b).length = wireLength b := by
  obtain ⟨rfl, h⟩ | ⟨rfl, h⟩ | ⟨hm, hf, h⟩ := escapeByte_cases b
  · rw [h]; rfl
  · rw [h]; rfl
  · rw [h, wireLength, if_neg (not_or.mpr ⟨hm, hf⟩)]; rfl

theorem frameTail_length (g : Half) : (frameTail g).length
    = wireLength ((~~~g).extractLsb' 0 8) + wireLength ((~~~g).extractLsb' 8 8) + 1 := by
  simp only [frameTail, List.length_append, escapeByte_length, crcFinal_eq, lowByte, highByte, List.length_singleton]

theorem execCrcInit_effect (s : State) : HasEffect .crcInit s (execCrcInit s) := by
  unfold execCrcInit
  split
  next hdata => exact ⟨_, rfl, .sequence hdata⟩
  next hidle => exact ⟨_, rfl, .crcInit hidle⟩

theorem execCrcByte_effect (d : Byte) (s : State) : HasEffect (.crcByte d) s (execCrcByte d s) := by
  unfold execCrcByte
  split
  next hdata => exact ⟨_, rfl, .sequence hdata⟩
  next hidle => exact ⟨_, rfl, .crcByte hidle⟩

theorem execTxStart_effect (s : State) : HasEffect .txStart s (execTxStart s) := by
  unfold execTxStart
  split
  next hdata => exact ⟨_, rfl, .sequence hdata⟩
  next hidle => exact ⟨_, rfl, .txStart hidle⟩

theorem execTxByte_effect (d : Byte) (s : State) : HasEffect (.txByte d) s (execTxByte d s) := by
  cases h : s.txPhase with
  | idle => exact ⟨_, execTxByte_idle h d, .sequence h⟩
  | data =>
    have hseq : ¬ OutOfSequence (.txByte d) s := by simp [OutOfSequence, h]
    rcases Nat.lt_or_ge (freeTx s) (escapeByte d).length with hroom | hroom
    · exact ⟨_, execTxByte_full h hroom, .full hseq (by rwa [escapeByte_length] at hroom)⟩
    · exact ⟨_, execTxByte_push h hroom, .txByte h hroom⟩

theorem execTxEnd_effect (s : State) : HasEffect .txEnd s (execTxEnd s) := by
  cases h : s.txPhase with
  | idle => exact ⟨_, execTxEnd_idle h, .sequence h⟩
  | data =>
    have hseq : ¬ OutOfSequence .txEnd s := by simp [OutOfSequence, h]
    rcases Nat.lt_or_ge (freeTx s) (frameTail s.g).length with hroom | hroom
    · exact ⟨_, execTxEnd_full h hroom, .full hseq (by rwa [frameTail_length] at hroom)⟩
    · exact ⟨_, execTxEnd_push h hroom, .txEnd h hroom⟩

/-- RX_FIFO full with two bytes held is NoRoom for a decoded byte, in DATA and in ESC. -/
theorem takeDecoded_effect {s : State} {d x : Byte} (hd : DecodesTo s d x) :
    HasEffect (.rxByte d) s (takeDecoded x s) := by
  obtain ⟨hhold, ht⟩ | ⟨c, h, hhold, hfull, ht⟩ | ⟨c, h, hhold, hroom, ht⟩ := takeDecoded_cases x s
  · exact ⟨_, ht, .rxHeld hd hhold⟩
  · refine ⟨_, ht, .full ?_ ⟨by simp [hhold], hfull, ?_⟩⟩
    · obtain ⟨hp, -⟩ | ⟨hp, -⟩ := hd <;> simp [OutOfSequence, hp]
    · obtain ⟨hp, hm, hf, -⟩ | ⟨hp, -⟩ := hd
      · exact .inr ⟨hp, hm, hf⟩
      · exact .inl hp
  · exact ⟨_, ht, .rxCommitted hd hhold hroom⟩

theorem rxTerminate_effect {s : State} (h : s.rxPhase = .data) :
    HasEffect (.rxByte 0x7E) s (complete (rxTerminate s)) := by
  obtain ⟨hhold, ht⟩ | ⟨lo, hi, rest, hhold, ht⟩ := rxTerminate_cases s
  · exact ⟨_, by rw [ht]; rfl, .rxShort h hhold⟩
  · exact ⟨_, by rw [ht]; rfl, .rxDone h hhold⟩

theorem execRxByte_effect (d : Byte) (s : State) : HasEffect (.rxByte d) s (execRxByte d s) := by
  unfold execRxByte
  split
  next hidle => exact ⟨_, rfl, .sequence hidle⟩
  next hdone => exact ⟨_, rfl, .rxByteIgnored (.inl hdone)⟩
  next hfail => exact ⟨_, rfl, .rxByteIgnored (.inr hfail)⟩
  next hdata =>
    split_ifs with hflag hesc
    · subst hflag; exact rxTerminate_effect hdata
    · subst hesc; exact ⟨_, rfl, .rxMarker hdata⟩
    · exact takeDecoded_effect (.inl ⟨hdata, hesc, hflag, rfl⟩)
  next hesc => exact takeDecoded_effect (.inr ⟨hesc, rfl⟩)

theorem execRxEnd_effect (s : State) : HasEffect .rxEnd s (execRxEnd s) := by
  unfold execRxEnd
  split
  next hidle => exact ⟨_, rfl, .sequence hidle⟩
  next hdata => exact ⟨_, rfl, .rxUnterminated (.inl hdata)⟩
  next hesc => exact ⟨_, rfl, .rxUnterminated (.inr hesc)⟩
  next hdone => exact ⟨_, rfl, .rxEndIgnored (.inl hdone)⟩
  next hfail => exact ⟨_, rfl, .rxEndIgnored (.inr hfail)⟩

/-- Every command in every state answers a next state with one of its effects. -/
theorem exec_effect (i : Instr) (s : State) : HasEffect i s (exec i s) := by
  cases i with
  | nop => exact ⟨_, rfl, .nop⟩
  | crcInit => exact execCrcInit_effect s
  | crcByte d => exact execCrcByte_effect d s
  | txStart => exact execTxStart_effect s
  | txByte d => exact execTxByte_effect d s
  | txEnd => exact execTxEnd_effect s
  | rxStart => exact ⟨_, rfl, .rxStart⟩
  | rxByte d => exact execRxByte_effect d s
  | rxEnd => exact execRxEnd_effect s
  | softReset => exact ⟨_, rfl, .softReset⟩

/-- The same, read backwards: what is known of s and t when a command leads from s to t. -/
theorem effect_of_exec {i : Instr} {s t : State} (h : exec i s = .next t) : CommandEffect i s t := by
  obtain ⟨u, hu, he⟩ := exec_effect i s
  rw [h] at hu
  cases hu
  exact he

/-- A command is the block's own affair: the parameters, the pin and the host's side stay (R45). -/
theorem CommandEffect.host_side {i : Instr} {s t : State} (h : CommandEffect i s t) :
    t.params = s.params ∧ t.rstN = s.rstN ∧ t.pending = s.pending ∧ t.observed = s.observed := by
  cases h <;> exact ⟨rfl, rfl, rfl, rfl⟩

/-- The commands that write G are those of R20 and a reset. -/
theorem CommandEffect.g_writers {i : Instr} {s t : State} (h : CommandEffect i s t) :
    t.g = s.g ∨ i = .crcInit ∨ (∃ d, i = .crcByte d) ∨ i = .txStart ∨ (∃ d, i = .txByte d) ∨ i = .softReset := by
  cases h with
  | crcInit | crcByte | txStart | txByte | softReset => right; simp
  | _ => exact .inl rfl

end Sys2Proof.Machine
end

section
/-! SUPPORT. What a step can do, said once: from the state whose program has moved past its event, a step that answers a
next state keeps it, reads a register, carries out a command, rejects an illegal word, or moves the reset pin. -/

namespace Sys2Proof.Machine

/-- The effects of an event. What reaches the block over the bus does so with rst_n released (R172). -/
inductive EventEffect : State → State → Prop where
  | kept {s} : EventEffect s s
  | read {s} (r : Reg) (hpin : s.rstN = true) : EventEffect s (observe (readReg r s).1 (readReg r s).2)
  | illegal {s} (hpin : s.rstN = true) : EventEffect s { s with cmdResult := .illegal }
  | command {i s t} (hpin : s.rstN = true) (heffect : CommandEffect i s t) : EventEffect s t
  | resetLow {s} : EventEffect s { resetState s with rstN := false }
  | resetHigh {s} : EventEffect s { s with rstN := true }

theorem writeCommand_effect {s t : State} {w : Word} (hpin : s.rstN = true) (h : writeCommand w s = .next t) :
    EventEffect s t := by
  unfold writeCommand at h
  split at h
  · exact .command hpin (effect_of_exec h)
  · cases h; exact .illegal hpin

theorem registerAccess_effect {s t : State} {r : Reg} {d : Direction} (hpin : s.rstN = true)
    (h : registerAccess r d s = .next t) : EventEffect s t := by
  cases d with
  | read => cases h; exact .read r hpin
  | write v =>
    by_cases hr : r = .cmd
    · subst hr; exact writeCommand_effect hpin h
    · rw [registerAccess, writeReg_readOnly hr] at h
      cases h; exact .kept

theorem hostAccess_effect {s t : State} {a : Access} (h : hostAccess a s = .next t) : EventEffect s t := by
  obtain ⟨r, -, hpin, hr⟩ | hr | hr | hr := hostAccess_cases a s <;> rw [hr] at h
  · exact registerAccess_effect hpin h
  all_goals cases h

/-- A drain is one read of its port; its entry stays in the program while bytes are popped (R81, log 11). -/
theorem drainTxStep_effect {s t : State} (h : drainTxStep s = .next t) :
    ∃ rest, EventEffect { s with pending := rest } t := by
  unfold drainTxStep at h
  split at h
  · exact ⟨s.pending, hostAccess_effect h⟩
  · exact ⟨_, hostAccess_effect h⟩

theorem drainRxStep_effect {s t : State} (h : drainRxStep s = .next t) :
    ∃ rest, EventEffect { s with pending := rest } t := by
  unfold drainRxStep at h
  split at h
  · exact ⟨s.pending, hostAccess_effect h⟩
  · exact ⟨_, hostAccess_effect h⟩

theorem runEvent_effect {s t : State} {e : HostEvent} (h : runEvent e s = .next t) :
    ∃ rest, EventEffect { s with pending := rest } t := by
  cases e with
  | access a => exact ⟨s.pending, hostAccess_effect h⟩
  | drainTx => exact drainTxStep_effect h
  | drainRx => exact drainRxStep_effect h
  | resetLow => cases h; exact ⟨s.pending, .resetLow⟩
  | resetHigh => cases h; exact ⟨s.pending, .resetHigh⟩
  | foreign a => cases h

theorem step_effect {s t : State} (h : step s = .next t) : ∃ rest, EventEffect { s with pending := rest } t := by
  unfold step nextEvent at h
  split at h
  next => cases h; exact ⟨s.pending, .kept⟩
  next e rest _ => exact runEvent_effect (s := { s with pending := rest }) h

/-- The state after a read: the block as it was, or with the oldest byte of one FIFO gone (R53 to R57). -/
theorem readReg_state_cases (r : Reg) (s : State) :
    (readReg r s).2 = s ∨ (readReg r s).2 = { s with txFifo := s.txFifo.tail }
      ∨ (readReg r s).2 = { s with rxFifo := s.rxFifo.tail } := by
  by_cases ht : r = .txout
  · subst ht; exact .inr (.inl (popTx_state s))
  · by_cases hr : r = .rxout
    · subst hr; exact .inr (.inr (popRx_state s))
    · exact .inl (readReg_state ht hr s)

theorem readReg_params (r : Reg) (s : State) : (readReg r s).2.params = s.params := by
  obtain h | h | h := readReg_state_cases r s <;> rw [h]

theorem EventEffect.params {s t : State} (h : EventEffect s t) : t.params = s.params := by
  cases h with
  | read r => exact readReg_params r s
  | command _ he => exact he.host_side.1
  | kept | illegal | resetLow | resetHigh => rfl

end Sys2Proof.Machine
end

section
/-! SUPPORT. The invariant of R33, by the decoder's phase, and that every effect of a command and of a step keeps it. -/

namespace Sys2Proof.Machine

/-- In an open frame the invariant says that everything fits and no outcome is recorded yet (R29 to R31, R33). -/
theorem inv_iff_of_open {s : State} (h : s.rxPhase = .data ∨ s.rxPhase = .esc) :
    Inv s ↔ s.txFifo.length ≤ s.params.txCap ∧ s.rxFifo.length ≤ s.params.rxCap ∧ s.rxHold.length ≤ 2
      ∧ s.rxErr = .none ∧ s.crcMatch = false ∧ s.rxFcs = 0 := by
  obtain ⟨hidle, hdone, hfail⟩ : s.rxPhase ≠ .idle ∧ s.rxPhase ≠ .done ∧ s.rxPhase ≠ .fail := by
    obtain h | h := h <;> simp [h]
  constructor
  · intro hs
    exact ⟨hs.txFifo_fits, hs.rxFifo_fits, hs.rxHold_fits, not_not.mp (mt hs.rxErr_iff.mp hfail),
      by simpa [hdone] using hs.crcMatch_iff, hs.rxFcs_done hdone⟩
  · rintro ⟨htx, hrx, hhold, herr, hmatch, hfcs⟩
    exact {
      txFifo_fits := htx
      rxFifo_fits := hrx
      rxHold_fits := hhold
      rxHold_empty := by simp [hidle, hdone, hfail]
      rxErr_iff := by simp [herr, hfail]
      crcMatch_iff := by simp [hmatch, hdone]
      rxFcs_done := fun _ => hfcs
      rx_idle := fun h => absurd h hidle }

/-- A byte is decoded only in an open frame. -/
theorem DecodesTo.frame_open {s : State} {d x : Byte} (h : DecodesTo s d x) : s.rxPhase = .data ∨ s.rxPhase = .esc :=
  h.imp And.left And.left

theorem inv_resetState (s : State) : Inv (resetState s) := by
  constructor <;> simp

/-- A failure ends an open frame: RX_FCS is still 0, and the error says why (R126). -/
theorem Inv.failRx_of_open {s : State} {e : RxErr} (hs : Inv s) (h : s.rxPhase = .data ∨ s.rxPhase = .esc)
    (he : e ≠ .none) : Inv (failRx e s) := by
  obtain ⟨htx, hrx, -, -, -, hfcs⟩ := (inv_iff_of_open h).mp hs
  exact {
    txFifo_fits := htx
    rxFifo_fits := hrx
    rxHold_fits := Nat.zero_le _
    rxHold_empty := fun _ => rfl
    rxErr_iff := by simp [he]
    crcMatch_iff := by simp
    rxFcs_done := fun _ => hfcs
    rx_idle := nofun }

/-- A terminated frame records the comparison of the received checksum with ~RX_ACC (R30, R127). -/
theorem Inv.done_of_data {s : State} (hs : Inv s) (h : s.rxPhase = .data) (fcs : Half) :
    Inv { s with rxFcs := fcs, crcMatch := fcsMatches fcs s.rxAcc, rxHold := [], rxPhase := .done } := by
  obtain ⟨htx, hrx, -, herr, -⟩ := (inv_iff_of_open (.inl h)).mp hs
  exact {
    txFifo_fits := htx
    rxFifo_fits := hrx
    rxHold_fits := Nat.zero_le _
    rxHold_empty := fun _ => rfl
    rxErr_iff := by simp [herr]
    crcMatch_iff := by simp [fcsMatches]
    rxFcs_done := fun h => absurd rfl h
    rx_idle := nofun }

/-- Every effect of a command keeps the invariant: those that leave the decoder alone touch at most the FIFO clause of
TX, and those inside a frame leave its outcome fields clear. -/
theorem CommandEffect.inv {i : Instr} {s t : State} (h : CommandEffect i s t) (hs : Inv s) : Inv t := by
  cases h with
  | sequence | full | nop | crcInit | crcByte | txStart | rxByteIgnored | rxEndIgnored => exact { hs with }
  | txByte _ hroom | txEnd _ hroom =>
    refine { hs with txFifo_fits := ?_ }
    have := hs.txFifo_fits
    simp only [freeTx, List.length_append] at hroom ⊢
    omega
  | rxStart => exact (inv_iff_of_open (.inl rfl)).mpr ⟨hs.txFifo_fits, Nat.zero_le _, Nat.zero_le _, rfl, rfl, rfl⟩
  | rxMarker hdata => exact (inv_iff_of_open (.inr rfl)).mpr ((inv_iff_of_open (.inl hdata)).mp hs)
  | rxHeld hd hhold =>
    obtain ⟨htx, hrx, hfits, hclear⟩ := (inv_iff_of_open hd.frame_open).mp hs
    refine (inv_iff_of_open (.inl rfl)).mpr ⟨htx, hrx, ?_, hclear⟩
    simp only [List.length_append, List.length_singleton]
    omega
  | rxCommitted hd _ hroom =>
    obtain ⟨htx, hrx, -, hclear⟩ := (inv_iff_of_open hd.frame_open).mp hs
    refine (inv_iff_of_open (.inl rfl)).mpr ⟨htx, ?_, Nat.le_refl 2, hclear⟩
    simp only [List.length_append, List.length_singleton]
    omega
  | rxShort hdata => exact { hs.failRx_of_open (.inl hdata) (e := .shortFrame) (by decide) with }
  | rxUnterminated hopen => exact { hs.failRx_of_open hopen (e := .noTerminator) (by decide) with }
  | rxDone hdata => exact { hs.done_of_data hdata _ with }
  | softReset => exact inv_resetState s

/-- A read pops at most one byte, and a shorter FIFO still fits. -/
theorem Inv.readReg_state {s : State} (hs : Inv s) (r : Reg) : Inv (readReg r s).2 := by
  obtain h | h | h := readReg_state_cases r s <;> rw [h]
  · exact hs
  · exact { hs with txFifo_fits := (List.tail_sublist _).length_le.trans hs.txFifo_fits }
  · refine { hs with rxFifo_fits := (List.tail_sublist _).length_le.trans hs.rxFifo_fits, rx_idle := fun hidle => ?_ }
    obtain ⟨hempty, hrest⟩ := hs.rx_idle hidle
    exact ⟨by rw [hempty]; rfl, hrest⟩

theorem EventEffect.inv {s t : State} (h : EventEffect s t) (hs : Inv s) : Inv t := by
  cases h with
  | kept => exact hs
  | read r => exact { hs.readReg_state r with }
  | command _ he => exact he.inv hs
  | illegal | resetHigh => exact { hs with }
  | resetLow => exact { inv_resetState s with }

end Sys2Proof.Machine
end

section
/-! SUPPORT. What a register's word shows of the state behind it (10_state.md R39, R40, R43, R44). -/

namespace Sys2Proof.Machine

/-- The word of a pop depends on the oldest byte alone (R44, R55). -/
def headWord (fifo : List Byte) : Word := (fifo.head?.map validWord).getD 0

theorem popTx_word (s : State) : (popTx s).1 = headWord s.txFifo := by
  cases h : s.txFifo with
  | nil => rw [popTx_nil h]; rfl
  | cons b bs => rw [popTx_cons h]; rfl

theorem popRx_word (s : State) : (popRx s).1 = headWord s.rxFifo := by
  cases h : s.rxFifo with
  | nil => rw [popRx_nil h]; rfl
  | cons b bs => rw [popRx_cons h]; rfl

theorem halves_high (high low : Half) : (halves high low).extractLsb' 16 16 = high := BitVec.extractLsb'_append_eq_left

theorem halves_low (high low : Half) : (halves high low).extractLsb' 0 16 = low := BitVec.extractLsb'_append_eq_right

/-- RX_HCNT is wide enough for the bytes the delay line may hold (R33, R37). -/
theorem holdCount_toNat {s : State} (h : s.rxHold.length ≤ 2) : (holdCount s).toNat = s.rxHold.length := by
  rw [holdCount, BitVec.toNat_ofNat, Nat.mod_eq_of_lt (by omega)]

end Sys2Proof.Machine
end

section
/-! PROOFS. The statements about the state of the block and its registers (10_state.md). -/

namespace Sys2Proof.Machine

/-- Settles O31: each effect of a step keeps the invariant, and moving the program on touches none of its clauses. -/
theorem stepKeepsInvariant : Obligations.StepKeepsInvariant := by
  intro s t hs hstep
  obtain ⟨rest, heffect⟩ := step_effect hstep
  exact heffect.inv { hs with }

/-- Settles O25, from the effects of the commands. -/
theorem onlyNamedCommandsWriteG : Obligations.OnlyNamedCommandsWriteG := by
  intro i s t hexec hg
  exact (effect_of_exec hexec).g_writers.resolve_left hg

/-- Settles O27, from the effects of the commands. -/
theorem commandsLeaveHostSide : Obligations.CommandsLeaveHostSide := by
  intro i s
  obtain ⟨t, hexec, heffect⟩ := exec_effect i s
  exact ⟨t, hexec, heffect.host_side⟩

/-- Settles O28, from the effects of the events. -/
theorem parametersNeverChange : Obligations.ParametersNeverChange := by
  intro s t hstep
  obtain ⟨rest, heffect⟩ := step_effect hstep
  exact heffect.params

/-- Settles O41: a port's word depends on the head of its FIFO, and the words of the others on lengths at most. -/
theorem hiddenBytesNotRead : Obligations.HiddenBytesNotRead := by
  intro s hold tx rx r hhold htx hrx htxHead hrxHead
  cases r with
  | cmd | crc | rxcrc => rfl
  | status => simp only [readReg, statusWord, holdCount, hhold]
  | txout => simp only [readReg, popTx_word, headWord, htxHead]
  | rxout => simp only [readReg, popRx_word, headWord, hrxHead]
  | txcount => simp only [readReg, txCountWord, htx]
  | rxcount => simp only [readReg, rxCountWord, hrx]

/-- Settles O42: in DONE the invariant says that CRC_MATCH is the comparison of RX_FCS with ~RX_ACC. -/
theorem rxcrcHalvesEqualIffMatch : Obligations.RxcrcHalvesEqualIffMatch := by
  intro s hs hdone
  have hmatch : s.crcMatch = true ↔ s.rxFcs = ~~~s.rxAcc := by simpa [hdone] using hs.crcMatch_iff
  rw [hmatch, readReg, rxCrcWord, halves_high, halves_low, eq_comm]

/-- Settles O30. -/
theorem resetMeetsInvariant : Obligations.ResetMeetsInvariant :=
  ⟨resetState_reset ▸ inv_resetState State.reset, by decide⟩

/-- Settles O34: STATUS is the layout of R37 over the codes of its elements. -/
theorem statusFieldsShowState : Obligations.StatusFieldsShowState := by
  refine ⟨by decide, ?_⟩
  rintro s v rfl
  exact ⟨statusLayout_tx .., statusLayout_rx .., statusLayout_hit ..,
    fun hhold => (congrArg BitVec.toNat (statusLayout_count ..)).trans (holdCount_toNat hhold),
    statusLayout_result .., statusLayout_err .., statusLayout_zero ..⟩

/-- Settles O35: a read of a port is a step that reaches its register, by whether the FIFO is empty. -/
theorem outRegistersPop : Obligations.OutRegistersPop := by
  intro s rest hpin
  refine ⟨fun hread => ⟨fun hempty => ?_, fun b bs hfifo => ?_⟩, fun hread => ⟨fun hempty => ?_, fun b bs hfifo => ?_⟩⟩
    <;> rw [step_read hpin hread, readReg]
  · rw [popTx_nil (s := { s with pending := rest }) hempty]; rfl
  · rw [popTx_cons (s := { s with pending := rest }) hfifo]; rfl
  · rw [popRx_nil (s := { s with pending := rest }) hempty]; rfl
  · rw [popRx_cons (s := { s with pending := rest }) hfifo]; rfl

end Sys2Proof.Machine
end

section
/-! SUPPORT. What a step does with an access to the window: an accepted access completes, an access that is no write to
CMD changes at most the FIFO it pops (20_memory.md R52 to R59), and a drain takes its port's bytes one by one
(30_encoding.md R81). -/

namespace Sys2Proof.Machine

theorem step_event {s : State} {e : HostEvent} {rest : List HostEvent} (h : s.pending = e :: rest) :
    step s = runEvent e { s with pending := rest } := by
  simp only [step, nextEvent, h]

theorem decodeTableWord_eq_some {nbits w : Nat} {i : Instr} (h : decodeTableWord nbits w = some i) :
    decodeWord (BitVec.ofNat 32 (w % 2 ^ nbits)) = .ok i := by
  unfold decodeTableWord at h
  split_ifs at h
  cases hw : decodeWord (BitVec.ofNat 32 (w % 2 ^ nbits)) with
  | ok j => rw [hw] at h; cases h; rfl
  | error e => rw [hw] at h; cases h

theorem writeCommand_ok {w : Word} {i : Instr} (h : decodeWord w = .ok i) (s : State) :
    writeCommand w s = exec i s := by
  simp only [writeCommand, h]

/-- A word written to CMD answers a next state, whether it is legal or not (R53, R150). -/
theorem writeCommand_completes (w : Word) (s : State) :
    ∃ t, writeCommand w s = .next t ∧ t.pending = s.pending := by
  unfold writeCommand
  split
  next i _ =>
    obtain ⟨t, hexec, heffect⟩ := exec_effect i s
    obtain ⟨-, -, hpending, -⟩ := heffect.host_side
    exact ⟨t, hexec, hpending⟩
  next => exact ⟨_, rfl, rfl⟩

theorem readReg_pending (r : Reg) (s : State) : (readReg r s).2.pending = s.pending := by
  obtain h | h | h := readReg_state_cases r s <;> rw [h]

theorem registerAccess_completes (r : Reg) (d : Direction) (s : State) :
    ∃ t, registerAccess r d s = .next t ∧ t.pending = s.pending := by
  cases d with
  | read => exact ⟨_, rfl, readReg_pending r s⟩
  | write v =>
    by_cases hr : r = .cmd
    · subst hr; exact writeCommand_completes v s
    · exact ⟨s, writeReg_readOnly hr v s, rfl⟩

theorem offset_mod_four (r : Reg) : r.offset % 4 = 0 := by cases r <;> rfl

/-- With an aligned window, an access of another width, with a lane missing or off the registers' grid names no register
(R52). -/
theorem acceptedReg_eq_none {p : Params} {a : Access} (hp : p.WellFormed)
    (ha : a.size ≠ 4 ∨ a.lanes ≠ 0xF ∨ a.addr % 4 ≠ 0) : acceptedReg p a = none := by
  rw [Option.eq_none_iff_forall_ne_some]
  intro r hr
  have hbase : p.base % 0x20 = 0 := hp.1
  have hoffset := offset_mod_four r
  have haligned : (p.base + r.offset) % 4 = 0 := by omega
  rw [acceptedReg_eq_some hr] at ha
  simp [haligned] at ha

/-- An access that ends below the window or starts above it does not touch it (R50). -/
theorem touchesWindow_eq_false {p : Params} {a : Access} (hsize : 1 ≤ a.size)
    (h : a.addr + a.size ≤ p.base ∨ p.base + 0x20 ≤ a.addr) : touchesWindow p a = false := by
  rw [← Bool.not_eq_true, touchesWindow_iff]
  omega

/-- A read leaves the block as it was, or without the oldest byte of the FIFO behind the port it names (R55 to R57). -/
theorem readReg_pops_own_port (r : Reg) (s : State) :
    (readReg r s).2 = s ∨ r = .txout ∧ (readReg r s).2 = { s with txFifo := s.txFifo.tail }
      ∨ r = .rxout ∧ (readReg r s).2 = { s with rxFifo := s.rxFifo.tail } := by
  cases r with
  | txout => exact .inr (.inl ⟨rfl, popTx_state s⟩)
  | rxout => exact .inr (.inr ⟨rfl, popRx_state s⟩)
  | _ => exact .inl rfl

/-- An access that is no write to CMD and is answered was ignored, or was a read of a register (R53, R54). -/
theorem hostAccess_nonCommand {s t : State} {a : Access} (ha : ∀ v, a ≠ writeAccess s.params .cmd v)
    (h : hostAccess a s = .next t) :
    t = s ∨ ∃ r, a = readAccess s.params r ∧ t = observe (readReg r s).1 (readReg r s).2 := by
  obtain ⟨r, hr, -, haccess⟩ | hstop | hstop | hstop := hostAccess_cases a s
  · have hshape := acceptedReg_eq_some hr
    rw [haccess] at h
    cases hd : a.direction with
    | read =>
      rw [hd] at h hshape
      cases h
      exact .inr ⟨r, hshape, rfl⟩
    | write v =>
      rw [hd] at h hshape
      have hcmd : r ≠ .cmd := by rintro rfl; exact ha v hshape
      rw [registerAccess, writeReg_readOnly hcmd] at h
      cases h
      exact .inl rfl
  all_goals rw [hstop] at h; cases h

theorem hostAccess_read {s : State} (hpin : s.rstN = true) (r : Reg) :
    hostAccess (readAccess s.params r) s = .next (observe (readReg r s).1 (readReg r s).2) :=
  hostAccess_aligned rfl hpin r .read

/-- A drain of an empty FIFO reads VALID = 0 once (R81). -/
theorem drainTxStep_nil {s : State} (hpin : s.rstN = true) (hf : s.txFifo = []) :
    drainTxStep s = .next (observe 0 s) := by
  simp only [drainTxStep, hf]
  rw [hostAccess_read hpin, readReg, popTx_nil hf]

/-- A drain that pops a byte stays in the program (R81, log 11). -/
theorem drainTxStep_cons {s : State} {b : Byte} {bs : List Byte} (hpin : s.rstN = true) (hf : s.txFifo = b :: bs) :
    drainTxStep s = .next (observe (validWord b) { s with pending := .drainTx :: s.pending, txFifo := bs }) := by
  have hread := hostAccess_read (s := { s with pending := .drainTx :: s.pending }) hpin .txout
  rw [readReg, popTx_cons (s := { s with pending := .drainTx :: s.pending }) hf] at hread
  simp only [drainTxStep, hf, ← hread]

theorem drainRxStep_nil {s : State} (hpin : s.rstN = true) (hf : s.rxFifo = []) :
    drainRxStep s = .next (observe 0 s) := by
  simp only [drainRxStep, hf]
  rw [hostAccess_read hpin, readReg, popRx_nil hf]

theorem drainRxStep_cons {s : State} {b : Byte} {bs : List Byte} (hpin : s.rstN = true) (hf : s.rxFifo = b :: bs) :
    drainRxStep s = .next (observe (validWord b) { s with pending := .drainRx :: s.pending, rxFifo := bs }) := by
  have hread := hostAccess_read (s := { s with pending := .drainRx :: s.pending }) hpin .rxout
  rw [readReg, popRx_cons (s := { s with pending := .drainRx :: s.pending }) hf] at hread
  simp only [drainRxStep, hf, ← hread]

theorem run_succ {M : Host.Core} {s t : M.State} (h : M.step s = .next t) (k : Nat) : M.run (k + 1) s = M.run k t := by
  simp only [Host.Core.run, h]

/-- s inside DRAIN_TX: the bytes still queued, and what has been observed so far. -/
def txDraining (s : State) (rest : List HostEvent) (fifo : List Byte) (seen : List Word) : State :=
  { s with pending := .drainTx :: rest, txFifo := fifo, observed := seen }

/-- s inside DRAIN_RX. -/
def rxDraining (s : State) (rest : List HostEvent) (fifo : List Byte) (seen : List Word) : State :=
  { s with pending := .drainRx :: rest, rxFifo := fifo, observed := seen }

/-- A drain whose steps observe one byte each until none is left takes one step more than there are bytes. -/
theorem run_draining {draining : List Byte → List Word → State} {rest : List HostEvent}
    (hnil : ∀ seen, step (draining [] seen) = .next { draining [] (seen ++ [0]) with pending := rest })
    (hcons : ∀ b bs seen, step (draining (b :: bs) seen) = .next (draining bs (seen ++ [validWord b])))
    (fifo : List Byte) (seen : List Word) :
    Sys2Proof.core.run (fifo.length + 1) (draining fifo seen)
      = .next { draining [] (seen ++ fifo.map validWord ++ [0]) with pending := rest } := by
  induction fifo generalizing seen with
  | nil => rw [run_succ (M := Sys2Proof.core) (hnil seen), List.map_nil, List.append_nil]; rfl
  | cons b bs ih =>
    rw [List.length_cons, run_succ (M := Sys2Proof.core) (hcons b bs seen), ih, List.map_cons,
      List.append_assoc seen, List.singleton_append]

theorem step_txDraining_nil {s : State} (hpin : s.rstN = true) (rest : List HostEvent) (seen : List Word) :
    step (txDraining s rest [] seen) = .next { txDraining s rest [] (seen ++ [0]) with pending := rest } :=
  drainTxStep_nil (s := { s with pending := rest, txFifo := [], observed := seen }) hpin rfl

theorem step_txDraining_cons {s : State} (hpin : s.rstN = true) (rest : List HostEvent) (b : Byte) (bs : List Byte)
    (seen : List Word) :
    step (txDraining s rest (b :: bs) seen) = .next (txDraining s rest bs (seen ++ [validWord b])) :=
  drainTxStep_cons (s := { s with pending := rest, txFifo := b :: bs, observed := seen }) hpin rfl

theorem step_rxDraining_nil {s : State} (hpin : s.rstN = true) (rest : List HostEvent) (seen : List Word) :
    step (rxDraining s rest [] seen) = .next { rxDraining s rest [] (seen ++ [0]) with pending := rest } :=
  drainRxStep_nil (s := { s with pending := rest, rxFifo := [], observed := seen }) hpin rfl

theorem step_rxDraining_cons {s : State} (hpin : s.rstN = true) (rest : List HostEvent) (b : Byte) (bs : List Byte)
    (seen : List Word) :
    step (rxDraining s rest (b :: bs) seen) = .next (rxDraining s rest bs (seen ++ [validWord b])) :=
  drainRxStep_cons (s := { s with pending := rest, rxFifo := b :: bs, observed := seen }) hpin rfl

end Sys2Proof.Machine
end

section
/-! PROOFS. The statements about accesses to the register window (20_memory.md). -/

namespace Sys2Proof.Machine

/-- Settles O37: the address names a register, and an access that reaches a register is answered. -/
theorem everyAcceptedAccessCompletes : Obligations.EveryAcceptedAccessCompletes := by
  intro s rest k dir hpin hk hp
  obtain ⟨r, hr⟩ := exists_offset_eq hk
  rw [step_access hp, ← hr, hostAccess_aligned (s := { s with pending := rest }) rfl hpin]
  exact registerAccess_completes r dir { s with pending := rest }

/-- Settles O43: the access was ignored, or was a read of a register, which pops at most its own port's FIFO. -/
theorem nonCommandAccessKeepsEngines : Obligations.NonCommandAccessKeepsEngines := by
  intro s t rest a hp ha hstep
  rw [step_access hp] at hstep
  obtain rfl | ⟨r, rfl, rfl⟩ := hostAccess_nonCommand (s := { s with pending := rest }) ha hstep
  · simp only [true_or, and_self]
  · obtain h | ⟨rfl, h⟩ | ⟨rfl, h⟩ := readReg_pops_own_port r { s with pending := rest } <;> simp [h]

/-- Settles O56, by induction on the bytes in the FIFO. -/
theorem drainsEmptyTheFifos : Obligations.DrainsEmptyTheFifos := by
  intro s rest hpin
  constructor <;> intro hp
  · have hs : s = txDraining s rest s.txFifo s.observed := by rw [txDraining, ← hp]
    exact (congrArg (Sys2Proof.core.run _) hs).trans
      (run_draining (step_txDraining_nil hpin rest) (step_txDraining_cons hpin rest) _ _)
  · have hs : s = rxDraining s rest s.rxFifo s.observed := by rw [rxDraining, ← hp]
    exact (congrArg (Sys2Proof.core.run _) hs).trans
      (run_draining (step_rxDraining_nil hpin rest) (step_rxDraining_cons hpin rest) _ _)

/-- Settles O7: the write reaches CMD, where the word is decoded. -/
theorem stepRunsDecodedCommand : Obligations.StepRunsDecodedCommand := by
  intro s rest w i hpin hp hdecode
  rw [step_write hpin hp]
  exact writeCommand_ok hdecode _

/-- Settles O8: withFetchWord places a write to CMD of a word that decodes. -/
theorem fetchedWordRunsNext : Obligations.FetchedWordRunsNext := by
  intro s nbits w i htable
  exact stepRunsDecodedCommand (s.withFetchWord nbits w) s.pending _ i rfl rfl (decodeTableWord_eq_some htable)

/-- Settles O33: the read reaches its register, whose word is the layout of R37, R38 or R41 to R43. -/
theorem stateRegistersReadLayouts : Obligations.StateRegistersReadLayouts := by
  intro s rest r v hpin hp hlayout
  rw [step_read hpin hp]
  obtain ⟨rfl, rfl⟩ | ⟨rfl, rfl⟩ | ⟨rfl, rfl⟩ | ⟨rfl, rfl⟩ | ⟨rfl, rfl⟩ | ⟨rfl, rfl⟩ := hlayout
  case inr.inl => rw [readReg, crcWord, crcFinal_eq]; rfl
  all_goals rfl

/-- Settles O36. -/
theorem readOnlyWritesIgnored : Obligations.ReadOnlyWritesIgnored := by
  intro s rest r v hpin hr hp
  rw [step_write hpin hp, writeReg_readOnly hr]

/-- Settles O38: an access that starts in the window touches it, and names no register. -/
theorem unacceptedAccessIsBusError : Obligations.UnacceptedAccessIsBusError := by
  intro s rest a hparams hpin hp hlow hhigh ha
  rw [step_access hp]
  exact hostAccess_busError (touchesWindow_start hlow hhigh) hpin (acceptedReg_eq_none hparams ha)

/-- Settles O39: by where the access lies, and by who makes it. -/
theorem accessesOutsideTheModelRefused : Obligations.AccessesOutsideTheModelRefused := by
  intro s rest a hsize
  refine ⟨fun hp hout => ?_, fun hp hlow hhigh hpin => ?_, fun hp => ?_⟩
  · rw [step_access hp]
    exact hostAccess_outside (touchesWindow_eq_false hsize hout)
  · rw [step_access hp]
    exact hostAccess_inReset (touchesWindow_start hlow hhigh) hpin
  · rw [step_event hp, runEvent]

end Sys2Proof.Machine
end

section
/-! SUPPORT. The decoder against the encoder and the opcode map (30_encoding.md R71 to R75): a word decodes to a command
exactly when it is that command's word, and a word with one of R74's three causes decodes to none. -/

namespace Sys2Proof

theorem decodeOp_opcode (i : Instr) : decodeOp (opcode i) (operandByte i) = .ok i := by cases i <;> rfl

theorem decodeWord_zeroRsv (op d : Byte) : decodeWord (0#16 ++ op ++ d) = decodeOp op d := decodeWord_append 0 op d

/-- A row of the map that decodes to a command is that command's row: first the rows that check DATA, then those with a
data byte. -/
theorem fields_of_decodeOp {op d : Byte} {i : Instr} (h : decodeOp op d = .ok i) :
    op = opcode i ∧ d = operandByte i := by
  unfold decodeOp at h
  split_ifs at h <;> subst op
  any_goals obtain ⟨rfl, rfl⟩ := dataless_ok h; exact ⟨rfl, rfl⟩
  all_goals cases h; exact ⟨rfl, rfl⟩

theorem decodeWord_encode (i : Instr) : decodeWord (encode i) = .ok i :=
  (decodeWord_zeroRsv (opcode i) (operandByte i)).trans (decodeOp_opcode i)

/-- A legal word is the word of its command, with no bit dropped (R73, R75). -/
theorem encode_of_decodeWord {w : Word} {i : Instr} (h : decodeWord w = .ok i) : encode i = w := by
  unfold decodeWord at h
  split_ifs at h with hrsv
  obtain ⟨hop, hdata⟩ := fields_of_decodeOp h
  have hword := word_eq_fields w
  rwa [hrsv, hop, hdata] at hword

theorem decodeWord_eq_ok_iff {w : Word} {i : Instr} : decodeWord w = .ok i ↔ encode i = w :=
  ⟨encode_of_decodeWord, fun h => h ▸ decodeWord_encode i⟩

theorem encode_injective : Function.Injective encode := fun i j h =>
  Except.ok.inj ((decodeWord_encode i).symm.trans (h ▸ decodeWord_encode j))

theorem Instr.wellFormed_eq_true (i : Instr) : i.wellFormed = true := by cases i <;> rfl

/-- An opcode whose DATA must be 0 stands in a row of the map that checks it (R71). -/
theorem exists_decodeOp_eq_dataless {op : Byte} (h : op ∈ datalessOpcodes) :
    ∃ i, ∀ d, decodeOp op d = dataless i d := by
  simp only [datalessOpcodes, List.mem_cons, List.not_mem_nil, or_false] at h
  obtain rfl | rfl | rfl | rfl | rfl | rfl | rfl := h
  exacts [⟨.nop, fun _ => rfl⟩, ⟨.crcInit, fun _ => rfl⟩, ⟨.txStart, fun _ => rfl⟩, ⟨.txEnd, fun _ => rfl⟩,
    ⟨.rxStart, fun _ => rfl⟩, ⟨.rxEnd, fun _ => rfl⟩, ⟨.softReset, fun _ => rfl⟩]

/-- The opcodes of R71's map, in its order. -/
def mapOpcodes : List Byte := [0x00, 0x01, 0x02, 0x10, 0x11, 0x12, 0x20, 0x21, 0x22, 0xFF]

theorem decodeWord_nonzeroRsv {rsv : Half} (h : rsv ≠ 0) (op d : Byte) :
    decodeWord (rsv ++ op ++ d) = .error .reservedField := by
  rw [decodeWord_append, if_neg h]

theorem decodeOp_nonzeroData {op d : Byte} (hop : op ∈ datalessOpcodes) (hd : d ≠ 0) :
    decodeOp op d = .error .nonzeroData := by
  obtain ⟨i, hi⟩ := exists_decodeOp_eq_dataless hop
  rw [hi, dataless, if_neg hd]

theorem decodeOp_unmapped {op : Byte} (hop : op ∉ mapOpcodes) (d : Byte) : decodeOp op d = .error .reservedOpcode := by
  simp only [mapOpcodes, List.mem_cons, List.not_mem_nil, or_false, not_or] at hop
  simp only [decodeOp, hop, if_false]

/-- R74's three causes: RSV, OP, and DATA where it must be 0. -/
theorem decodeWord_illegal {rsv : Half} {op d : Byte}
    (h : rsv ≠ 0 ∨ op ∉ mapOpcodes ∨ (op ∈ datalessOpcodes ∧ d ≠ 0)) :
    ∃ e, decodeWord (rsv ++ op ++ d) = .error e := by
  by_cases hrsv : rsv = 0
  · rw [decodeWord_append, if_pos hrsv]
    obtain hop | ⟨hop, hd⟩ := h.resolve_left (not_not_intro hrsv)
    · exact ⟨_, decodeOp_unmapped hop d⟩
    · exact ⟨_, decodeOp_nonzeroData hop hd⟩
  · exact ⟨_, decodeWord_nonzeroRsv hrsv op d⟩

end Sys2Proof

namespace Sys2Proof.Machine

theorem rejectedAsIllegal_of_error {w : Word} {e : DecodeError} (h : decodeWord w = .error e) :
    RejectedAsIllegal w := by
  intro s
  simp only [writeReg, writeCommand, h, reject_eq]

end Sys2Proof.Machine
end

section
/-! SUPPORT. The commands counted (30_encoding.md R76): seven have no data byte, and three have one for each of the 256
bytes. -/

namespace Sys2Proof

/-- The commands without a data byte, in the map's order (R71). -/
def plainCommands : List Instr := [.nop, .crcInit, .txStart, .txEnd, .rxStart, .rxEnd, .softReset]

/-- Every b8. -/
def allBytes : List Byte := (List.finRange 256).map BitVec.ofFin

/-- The commands with a data byte, for every byte (R71, R73). -/
def byteCommands : List Instr := allBytes.map .crcByte ++ allBytes.map .txByte ++ allBytes.map .rxByte

@[simp] theorem allBytes_length : allBytes.length = 256 := by rw [allBytes, List.length_map, List.length_finRange]

@[simp] theorem mem_allBytes (d : Byte) : d ∈ allBytes := List.mem_map.mpr ⟨d.toFin, List.mem_finRange _, rfl⟩

theorem allBytes_nodup : allBytes.Nodup := (List.nodup_finRange 256).map fun _ _ => BitVec.ofFin.inj

theorem byteCommands_length : byteCommands.length = 3 * 256 := by
  simp only [byteCommands, List.length_append, List.length_map, allBytes_length]

theorem mem_plainCommands {i : Instr} : i ∈ plainCommands ↔ opcode i ∈ datalessOpcodes := by
  cases i <;> simp [plainCommands, datalessOpcodes, opcode]

theorem mem_byteCommands {i : Instr} : i ∈ byteCommands ↔ opcode i ∈ byteOpcodes := by
  cases i <;> simp [byteCommands, byteOpcodes, opcode]

theorem byteCommands_nodup : byteCommands.Nodup := by
  have hcrc : (allBytes.map Instr.crcByte).Nodup := allBytes_nodup.map fun _ _ => Instr.crcByte.inj
  have htx : (allBytes.map Instr.txByte).Nodup := allBytes_nodup.map fun _ _ => Instr.txByte.inj
  have hrx : (allBytes.map Instr.rxByte).Nodup := allBytes_nodup.map fun _ _ => Instr.rxByte.inj
  refine (hcrc.append htx ?_).append hrx ?_ <;> simp [List.Disjoint, or_imp, forall_and]

/-- Every command is in one of the two lists, and none in both: their opcodes are different. -/
theorem commands_nodup : (plainCommands ++ byteCommands).Nodup := by
  have hdisjoint : ∀ op ∈ datalessOpcodes, op ∉ byteOpcodes := by decide
  exact List.Nodup.append (by decide) byteCommands_nodup
    fun _ hplain hbyte => hdisjoint _ (mem_plainCommands.mp hplain) (mem_byteCommands.mp hbyte)

theorem mem_commands (i : Instr) : i ∈ plainCommands ++ byteCommands := by
  rw [List.mem_append, mem_plainCommands, mem_byteCommands]
  cases i <;> simp [opcode, datalessOpcodes, byteOpcodes]

/-- The words of the commands whose opcode is one of `ops` are the legal words with such an opcode. -/
theorem mem_map_encode_iff {is : List Instr} {ops : List Byte} (h : ∀ i, i ∈ is ↔ opcode i ∈ ops) (w : Word) :
    w ∈ is.map encode ↔ (∃ i, decodeWord w = .ok i) ∧ opField w ∈ ops := by
  simp only [List.mem_map, h, decodeWord_eq_ok_iff]
  constructor
  · rintro ⟨i, hi, rfl⟩
    exact ⟨⟨i, rfl⟩, by rwa [encode, opField_append]⟩
  · rintro ⟨⟨i, rfl⟩, hi⟩
    exact ⟨i, by rwa [encode, opField_append] at hi, rfl⟩

end Sys2Proof
end

section
/-! SUPPORT. The bytes of a program's line (30_encoding.md R81). -/

namespace Sys2Proof.Machine

theorem toBytes_map_toNat (bs : List Byte) : toBytes (bs.map BitVec.toNat) = bs := by
  simp [toBytes, Function.comp_def]

theorem bytesWellFormed_map_toNat (bs : List Byte) : bytesWellFormed (bs.map BitVec.toNat) = true := by
  simp only [bytesWellFormed, List.all_map, List.all_eq_true, Function.comp_apply, decide_eq_true_eq]
  exact fun b _ => b.isLt

theorem assemble_line (p : Params) (l : Line) : assemble p [l] = if l.wellFormed then some (l.events p) else none := by
  simp only [assemble, List.all_cons, List.all_nil, Bool.and_true, List.flatMap_cons, List.flatMap_nil, List.append_nil]

end Sys2Proof.Machine
end

section
/-! PROOFS. The statements about command words and program lines (30_encoding.md). -/

namespace Sys2Proof.Machine

/-- Settles O4: a word decodes to a command exactly when it is that command's word. -/
theorem decodeAgreesWithEncode : Obligations.DecodeAgreesWithEncode :=
  ⟨fun i _ => decodeWord_encode i, fun _ i h => ⟨i.wellFormed_eq_true, encode_of_decodeWord h⟩⟩

/-- Settles O5: the two lists are the words of the commands without and with a data byte. -/
theorem legalWordsNumber775 : Obligations.LegalWordsNumber775 := by
  refine ⟨plainCommands.map encode, byteCommands.map encode, rfl, ?_, ?_, ?_,
    mem_map_encode_iff fun _ => mem_plainCommands, mem_map_encode_iff fun _ => mem_byteCommands, fun w hw => ?_⟩
  · rw [List.length_map, byteCommands_length]
  · rw [List.length_append, List.length_map, List.length_map, byteCommands_length]; rfl
  · rw [← List.map_append]
    exact commands_nodup.map encode_injective
  · cases h : decodeWord w with
    | error e => exact rejectedAsIllegal_of_error h
    | ok i =>
      rw [← List.map_append, ← encode_of_decodeWord h] at hw
      exact absurd (List.mem_map_of_mem (mem_commands i)) hw

/-- Settles O3: the rows without a data byte are words of the encoder, the others and the errors are the map's. -/
theorem opcodeMapDecodes : Obligations.OpcodeMapDecodes :=
  ⟨decodeWord_encode .nop, decodeWord_encode .crcInit, decodeWord_zeroRsv 0x02,
    decodeWord_encode .txStart, decodeWord_zeroRsv 0x11, decodeWord_encode .txEnd,
    decodeWord_encode .rxStart, decodeWord_zeroRsv 0x21, decodeWord_encode .rxEnd, decodeWord_encode .softReset,
    fun op d hop hd => (decodeWord_zeroRsv op d).trans (decodeOp_nonzeroData hop hd),
    fun op d hop => (decodeWord_zeroRsv op d).trans (decodeOp_unmapped hop d)⟩

/-- Settles O6: the write reaches CMD, where a word with one of R74's causes is rejected. -/
theorem illegalWordChangesOnlyResult : Obligations.IllegalWordChangesOnlyResult := by
  intro s rest rsv op d hpin hp hcause
  obtain ⟨e, he⟩ := decodeWord_illegal hcause
  rw [step_write hpin hp]
  exact rejectedAsIllegal_of_error he _

/-- Settles O55: a line alone assembles to its events exactly when it is well formed. -/
theorem linesAssemble : Obligations.LinesAssemble := by
  intro p
  refine ⟨rfl, fun b hb => ?_, fun bs => ?_⟩
  · rw [assemble_line, Line.wellFormed, decide_eq_false (Nat.not_lt.mpr hb)]; rfl
  · rw [assemble_line, Line.wellFormed, if_pos (bytesWellFormed_map_toNat bs), Line.events, toBytes_map_toNat]; rfl

end Sys2Proof.Machine
end

section
/-! SUPPORT. The words of a command, by whether it has a data byte (30_encoding.md R71 to R74). -/

namespace Sys2Proof.Machine

theorem operandByte_of_dataless {i : Instr} (h : opcode i ∈ datalessOpcodes) : operandByte i = 0 := by
  cases i with
  | crcByte | txByte | rxByte => exact absurd h (by simp [opcode, datalessOpcodes])
  | _ => rfl

/-- A command without a data byte has one word, and that word's neighbours under its opcode are ILLEGAL. -/
theorem datalessEncoding {i : Instr} (h : opcode i ∈ datalessOpcodes) : DatalessEncoding (opcode i) i := by
  refine ⟨?_, fun rsv d hcause => ?_⟩
  · have hdecode := decodeWord_encode i
    rwa [encode, operandByte_of_dataless h] at hdecode
  · obtain ⟨e, he⟩ := decodeWord_illegal (hcause.imp_right fun hd => .inr ⟨h, hd⟩)
    exact rejectedAsIllegal_of_error he

/-- A command with a data byte has a word for each byte, and a nonzero RSV is ILLEGAL. -/
theorem byteEncoding {op : Byte} {i : Byte → Instr} (h : ∀ d, encode (i d) = 0#16 ++ op ++ d) : ByteEncoding op i :=
  ⟨fun d => h d ▸ decodeWord_encode (i d),
    fun _ d hrsv => rejectedAsIllegal_of_error (decodeWord_nonzeroRsv hrsv op d)⟩

end Sys2Proof.Machine
end

section
/-! SUPPORT. The generator's commands by TX_PHASE (40_crc.md R92, R93), alone and in R94's run, and which engine a
command's effect belongs to. -/

namespace Sys2Proof.Machine

theorem exec_crcInit_idle {s : State} (h : s.txPhase = .idle) :
    exec .crcInit s = .next { s with g := 0xFFFF, cmdResult := .ok } := by
  simp only [exec, execCrcInit, h]; rfl

theorem exec_crcInit_data {s : State} (h : s.txPhase = .data) :
    exec .crcInit s = .next { s with cmdResult := .sequence } := by
  simp only [exec, execCrcInit, h, reject_eq]

theorem exec_crcByte_idle {s : State} (h : s.txPhase = .idle) (d : Byte) :
    exec (.crcByte d) s = .next { s with g := crcStep s.g d, cmdResult := .ok } := by
  simp only [exec, execCrcByte, h]; rfl

theorem exec_crcByte_data {s : State} (h : s.txPhase = .data) (d : Byte) :
    exec (.crcByte d) s = .next { s with cmdResult := .sequence } := by
  simp only [exec, execCrcByte, h, reject_eq]

theorem acceptedRun_cons_ok {i : Instr} {s t : State} (h : exec i s = .next t) (hok : t.cmdResult = .ok)
    (is : List Instr) : acceptedRun (i :: is) s = acceptedRun is t := by
  simp only [acceptedRun, h, hok, if_true]

theorem acceptedRun_cons_rejected {i : Instr} {s t : State} (h : exec i s = .next t) (hrej : t.cmdResult ≠ .ok)
    (is : List Instr) : acceptedRun (i :: is) s = none := by
  simp only [acceptedRun, h, hrej, if_false]

/-- CRC_BYTEs written one after the other run the bytes through G and change nothing else. -/
theorem acceptedRun_crcBytes {s : State} (hidle : s.txPhase = .idle) (hok : s.cmdResult = .ok) (bs : List Byte) :
    acceptedRun (bs.map .crcByte) s = some { s with g := accOver s.g bs } := by
  induction bs generalizing s with
  | nil => rfl
  | cons b bs ih =>
    rw [List.map_cons, acceptedRun_cons_ok (exec_crcByte_idle hidle b) rfl, ← hok]
    exact ih (s := { s with g := crcStep s.g b }) hidle hok

theorem acceptedRun_crc16_idle {s : State} (h : s.txPhase = .idle) (bs : List Byte) :
    acceptedRun (crc16Commands bs) s = some { s with g := accOver 0xFFFF bs, cmdResult := .ok } :=
  (acceptedRun_cons_ok (exec_crcInit_idle h) rfl _).trans
    (acceptedRun_crcBytes (s := { s with g := 0xFFFF, cmdResult := .ok }) h rfl bs)

/-- In an open encoder frame the run ends at CRC_INIT. -/
theorem acceptedRun_crc16_data {s : State} (h : s.txPhase = .data) (bs : List Byte) :
    acceptedRun (crc16Commands bs) s = none :=
  acceptedRun_cons_rejected (exec_crcInit_data h) (by simp) _

theorem readReg_crc_high (s : State) : (readReg .crc s).1.extractLsb' 16 16 = crcFinal s.g := halves_high _ _

/-- The commands that write an element of the decoder are its own and a reset. -/
theorem CommandEffect.decoder_writers {i : Instr} {s t : State} (h : CommandEffect i s t) (hi : i ≠ .softReset) :
    t.rxPhase = s.rxPhase ∧ t.rxHold = s.rxHold ∧ t.rxFifo = s.rxFifo ∧ t.rxLen = s.rxLen ∧ t.rxAcc = s.rxAcc
        ∧ t.rxFcs = s.rxFcs ∧ t.crcMatch = s.crcMatch ∧ t.rxErr = s.rxErr
      ∨ i = .rxStart ∨ (∃ d, i = .rxByte d) ∨ i = .rxEnd := by
  cases h with
  | softReset => exact absurd rfl hi
  | rxStart | rxMarker | rxHeld | rxCommitted | rxShort | rxDone | rxByteIgnored | rxUnterminated | rxEndIgnored =>
    right; simp
  | sequence | full | nop | crcInit | crcByte | txStart | txByte | txEnd =>
    exact .inl ⟨rfl, rfl, rfl, rfl, rfl, rfl, rfl, rfl⟩

/-- The commands that write G or an element of the encoder are the generator's, the encoder's and a reset. -/
theorem CommandEffect.encoder_writers {i : Instr} {s t : State} (h : CommandEffect i s t) (hi : i ≠ .softReset) :
    t.g = s.g ∧ t.txPhase = s.txPhase ∧ t.txFifo = s.txFifo ∧ t.txLen = s.txLen
      ∨ i = .crcInit ∨ (∃ d, i = .crcByte d) ∨ i = .txStart ∨ (∃ d, i = .txByte d) ∨ i = .txEnd := by
  cases h with
  | softReset => exact absurd rfl hi
  | crcInit | crcByte | txStart | txByte | txEnd => right; simp
  | sequence | full | nop | rxStart | rxMarker | rxHeld | rxCommitted | rxShort | rxDone | rxByteIgnored
  | rxUnterminated | rxEndIgnored => exact .inl ⟨rfl, rfl, rfl, rfl⟩

end Sys2Proof.Machine
end

section
/-! SUPPORT. The checksum by bytes (40_crc.md R90, R91, R95, R96): an accumulator whose low bits are 0 is only shifted,
so the eight iterations of a byte let the high byte through; and every stage of crc16 loses nothing. -/

namespace Sys2Proof.Machine

/-- While only zeros are shifted out, POLY is not XORed in. -/
theorem crcShifts_of_low_zero {n : Nat} {a : Half} (h : ∀ i < n, a.getLsbD i = false) : crcShifts n a = a >>> n := by
  induction n generalizing a with
  | zero => rw [crcShifts, BitVec.ushiftRight_zero]
  | succ k ih =>
    have hshift : crcShift a = a >>> 1 := by rw [crcShift, h 0 k.succ_pos]; rfl
    have hlow : ∀ i < k, (a >>> 1).getLsbD i = false := fun i hi => by
      rw [BitVec.getLsbD_ushiftRight]
      exact h _ (by omega)
    rw [crcShifts, hshift, ih hlow, ← BitVec.shiftRight_add, Nat.add_comm]

theorem crcStep_zero (b : Byte) : crcStep 0 b = crcShifts 8 (b.setWidth 16) := by simp [crcStep]

theorem crcShifts_add (m n : Nat) (a : Half) : crcShifts (m + n) a = crcShifts n (crcShifts m a) := by
  induction m generalizing a with
  | zero => rw [Nat.zero_add, crcShifts]
  | succ k ih => rw [Nat.succ_add, crcShifts, crcShifts, ih]

/-- Eight iterations move a high byte down unchanged. -/
theorem crcShifts_highByte (b : Byte) : crcShifts 8 (b.setWidth 16 <<< 8) = b.setWidth 16 := by
  rw [crcShifts_of_low_zero fun i hi => by simp [hi]]
  apply BitVec.eq_of_getLsbD_eq
  intro i hi
  simp only [BitVec.getLsbD_ushiftRight, BitVec.getLsbD_shiftLeft, BitVec.getLsbD_setWidth]
  by_cases h8 : i < 8
  · simp [h8, hi, show 8 + i < 16 by omega]
  · simp [BitVec.getLsbD_of_ge b i (by omega)]

/-- The two bytes of a half share no bit. -/
theorem halfOfBytes_eq_xor (lo hi : Byte) : halfOfBytes lo hi = (hi.setWidth 16 <<< 8) ^^^ lo.setWidth 16 := by
  apply BitVec.eq_of_getLsbD_eq
  intro i _
  simp only [halfOfBytes, BitVec.getLsbD_or, BitVec.getLsbD_xor, BitVec.getLsbD_shiftLeft, BitVec.getLsbD_setWidth]
  by_cases h8 : i < 8
  · simp [h8]
  · simp [BitVec.getLsbD_of_ge lo i (by omega)]

theorem highByte_setWidth (k : Half) : (highByte k).setWidth 16 = k >>> 8 := by
  apply BitVec.eq_of_getLsbD_eq
  intro i hi
  simp only [highByte, BitVec.getLsbD_setWidth, BitVec.getLsbD_extractLsb', BitVec.getLsbD_ushiftRight, hi]
  by_cases h8 : i < 8
  · simp [h8]
  · simp [h8, BitVec.getLsbD_of_ge k (8 + i) (by omega)]

/-- A half is its two bytes. -/
theorem halfOfBytes_bytes (k : Half) : halfOfBytes (lowByte k) (highByte k) = k := by
  apply BitVec.eq_of_getLsbD_eq
  intro i hi
  simp only [halfOfBytes, highByte_setWidth, lowByte, BitVec.getLsbD_or, BitVec.getLsbD_shiftLeft,
    BitVec.getLsbD_ushiftRight, BitVec.getLsbD_setWidth, BitVec.getLsbD_extractLsb', hi]
  by_cases h8 : i < 8
  · simp [h8]
  · simp [h8, show 8 + (i - 8) = i by omega]

/-- Two bytes are consumed like the half they make, in sixteen iterations. -/
theorem accOver_two_bytes (a : Half) (lo hi : Byte) :
    accOver a [lo, hi] = crcShifts 16 (a ^^^ halfOfBytes lo hi) := by
  have hhigh : crcShifts 8 (a ^^^ lo.setWidth 16) ^^^ hi.setWidth 16 = crcShifts 8 (a ^^^ halfOfBytes lo hi) := by
    rw [halfOfBytes_eq_xor, BitVec.xor_comm (hi.setWidth 16 <<< 8), ← BitVec.xor_assoc,
      crcShifts_xor 8 (a ^^^ lo.setWidth 16), crcShifts_highByte]
  rw [crcShifts_add 8 8, ← hhigh]
  rfl

/-- The checksum's own bytes bring the accumulator to a constant: XORed with its complement it is all ones. -/
theorem accOver_ownChecksum (a : Half) :
    accOver a [lowByte (crcFinal a), highByte (crcFinal a)] = 0xF0B8 := by
  have hones : a ^^^ crcFinal a = 0xFFFF := by
    rw [crcFinal, ← BitVec.xor_assoc, BitVec.xor_self, BitVec.zero_xor]; rfl
  rw [accOver_two_bytes, halfOfBytes_bytes, hones]
  simp [crcShifts, crcShift, Config.poly]

theorem crcStep_acc_injective (b : Byte) : Function.Injective (crcStep · b) := fun _ _ h =>
  (BitVec.xor_left_inj _).mp (crcShifts_inj h)

theorem crcStep_byte_injective (a : Half) : Function.Injective (crcStep a) := fun b b' h => by
  have hwide : b.setWidth 16 = b'.setWidth 16 := (BitVec.xor_right_inj a).mp (crcShifts_inj h)
  simpa using congrArg (BitVec.setWidth 8) hwide

theorem accOver_injective (s : List Byte) : Function.Injective (accOver · s) := by
  induction s with
  | nil => exact fun _ _ h => h
  | cons b s ih => exact fun _ _ h => crcStep_acc_injective b (ih h)

theorem crcFinal_injective : Function.Injective crcFinal := fun _ _ h => (BitVec.xor_left_inj _).mp h

end Sys2Proof.Machine
end

section
/-! PROOFS. The statements about the checksum and its generator (40_crc.md). -/

namespace Sys2Proof.Machine

/-- Settles O26, from the effects of the commands. -/
theorem enginesAreIndependent : Obligations.EnginesAreIndependent := by
  intro i s t hi hexec
  have heffect := effect_of_exec hexec
  exact ⟨heffect.decoder_writers hi, heffect.encoder_writers hi⟩

/-- Settles O44: in IDLE the run is known whole, and in DATA there is none. -/
theorem crcCommandsComputeCrc16 : Obligations.CrcCommandsComputeCrc16 := by
  intro bs s
  refine ⟨fun hidle => ⟨_, acceptedRun_crc16_idle hidle bs⟩, fun t hrun => ?_⟩
  cases hphase : s.txPhase with
  | data => rw [acceptedRun_crc16_data hphase] at hrun; cases hrun
  | idle =>
    rw [acceptedRun_crc16_idle hphase] at hrun
    cases hrun
    exact ⟨rfl, readReg_crc_high _, by rw [hphase]⟩

/-- Settles O45: by linearity, the high byte moves down and the rest depends on the byte that leaves. -/
theorem crcStepIsByteTable : Obligations.CrcStepIsByteTable := by
  intro acc b
  calc crcStep acc b
      = crcStep (halfOfBytes (lowByte acc) (highByte acc)) b := by rw [halfOfBytes_bytes]
    _ = crcShifts 8 (((highByte acc).setWidth 16 <<< 8) ^^^ (lowByte acc ^^^ b).setWidth 16) := by
      rw [crcStep, halfOfBytes_eq_xor, BitVec.setWidth_xor, BitVec.xor_assoc]
    _ = (acc >>> 8) ^^^ crcShifts 8 ((lowByte acc ^^^ b).setWidth 16) := by
      rw [crcShifts_xor, crcShifts_highByte, highByte_setWidth]
    _ = (acc >>> 8) ^^^ crcStep 0 (acc.extractLsb' 0 8 ^^^ b) := by rw [crcStep_zero, lowByte]

/-- Settles O46: the accumulator after s meets the bytes of its own checksum. -/
theorem checksumResidue : Obligations.ChecksumResidue := by
  intro s
  have hacc : accOver 0xFFFF (s ++ [(crc16 s).extractLsb' 0 8, (crc16 s).extractLsb' 8 8]) = 0xF0B8 := by
    rw [accOver_append]
    exact accOver_ownChecksum (accOver 0xFFFF s)
  exact ⟨hacc, (congrArg crcFinal hacc).trans (by decide)⟩

/-- Settles O47: equal checksums mean equal accumulators, back through q to the byte that differs. -/
theorem byteChangeChangesCrc : Obligations.ByteChangeChangesCrc := by
  intro p q b b' hne hcrc
  have hacc := crcFinal_injective hcrc
  rw [accOver_append, accOver_append] at hacc
  exact hne (crcStep_byte_injective _ (accOver_injective q hacc))

/-- Settles O10. -/
theorem crcInitRule : Obligations.CrcInitRule :=
  ⟨datalessEncoding (i := .crcInit) (by decide), fun _ => ⟨exec_crcInit_idle, exec_crcInit_data⟩⟩

/-- Settles O11. -/
theorem crcByteRule : Obligations.CrcByteRule :=
  ⟨byteEncoding fun _ => rfl, fun _ d => ⟨fun h => exec_crcByte_idle h d, fun h => exec_crcByte_data h d⟩⟩

end Sys2Proof.Machine
end

section
/-! SUPPORT. The encoder's commands by TX_PHASE and room (41_encoder.md R102 to R104), and what a run of them pushes:
each command's effect when it is not rejected, and all of a frame's together. -/

namespace Sys2Proof.Machine

theorem exec_txStart_idle {s : State} (h : s.txPhase = .idle) :
    exec .txStart s = .next { s with g := 0xFFFF, txLen := 0, txPhase := .data, cmdResult := .ok } := by
  simp only [exec, execTxStart, h]; rfl

theorem exec_txStart_data {s : State} (h : s.txPhase = .data) :
    exec .txStart s = .next { s with cmdResult := .sequence } := by
  simp only [exec, execTxStart, h, reject_eq]

/-- What TX_END pushes, with the complement of G written out (R104). -/
theorem frameTail_eq (g : Half) :
    frameTail g = escapeByte ((~~~g).extractLsb' 0 8) ++ escapeByte ((~~~g).extractLsb' 8 8) ++ [0x7E] := by
  rw [frameTail, crcFinal_eq]; rfl

/-- The commands of a frame are those of the encoder. -/
def EncoderCommand (i : Instr) : Prop := i = .txStart ∨ (∃ d, i = .txByte d) ∨ i = .txEnd

theorem encoderCommand_of_mem {c : List Byte} {i : Instr} (h : i ∈ encodeCommands c) : EncoderCommand i := by
  simp only [encodeCommands, List.mem_append, List.mem_cons, List.mem_map, List.not_mem_nil, or_false] at h
  obtain (h | ⟨d, -, h⟩) | h := h
  · exact .inl h
  · exact .inr (.inl ⟨d, h.symm⟩)
  · exact .inr (.inr h)

/-- The effect of an encoder command that is not rejected, on an encoder whose FIFO always has room. -/
def sends (s : State) (i : Instr) : State :=
  match i with
  | .txStart => { s with g := 0xFFFF, txLen := 0, txPhase := .data, cmdResult := .ok }
  | .txByte d =>
    { s with txFifo := s.txFifo ++ escapeByte d, g := crcStep s.g d, txLen := s.txLen + 1, cmdResult := .ok }
  | .txEnd => { s with txFifo := s.txFifo ++ frameTail s.g, txPhase := .idle, cmdResult := .ok }
  | _ => s

/-- The bytes an open frame still sends for the data c and its end, when the accumulator stands at g. -/
def restOfFrame (g : Half) (c : List Byte) : List Byte := escapeAll c ++ frameTail (accOver g c)

theorem restOfFrame_nil (g : Half) : restOfFrame g [] = frameTail g := rfl

theorem restOfFrame_cons (g : Half) (d : Byte) (c : List Byte) :
    restOfFrame g (d :: c) = escapeByte d ++ restOfFrame (crcStep g d) c := List.append_assoc _ _ _

/-- The tail TX_END pushes is the escaped checksum and the terminator of R101. -/
theorem encodeFrame_eq_restOfFrame (c : List Byte) : encodeFrame c = restOfFrame 0xFFFF c := by
  simp only [encodeFrame, restOfFrame, frameTail, escapeAll_append, fcsBytes, escapeAll, List.append_nil,
    List.append_assoc]
  rfl

/-- An open frame with the data c sent and the frame closed. -/
def frameSent (c : List Byte) (s : State) : State :=
  { s with
    txFifo := s.txFifo ++ restOfFrame s.g c
    txPhase := .idle
    txLen := s.txLen + BitVec.ofNat 16 c.length
    g := accOver s.g c
    cmdResult := .ok }

theorem frameSent_nil (s : State) : frameSent [] s = sends s .txEnd := by
  simp only [frameSent, restOfFrame_nil, List.length_nil, BitVec.add_zero, accOver, sends]

theorem frameSent_cons (d : Byte) (c : List Byte) (s : State) :
    frameSent (d :: c) s = frameSent c (sends s (.txByte d)) := by
  have hlen : s.txLen + BitVec.ofNat 16 (d :: c).length = s.txLen + 1 + BitVec.ofNat 16 c.length := by
    rw [List.length_cons, Nat.add_comm, BitVec.ofNat_add, BitVec.add_assoc]; rfl
  simp only [frameSent, hlen, restOfFrame_cons, accOver, sends, List.append_assoc]

/-- A whole frame, from the state before TX_START (R105). -/
theorem frameSent_txStart (c : List Byte) (s : State) :
    frameSent c (sends s .txStart)
      = { s with
          txFifo := s.txFifo ++ encodeFrame c
          txPhase := .idle
          txLen := BitVec.ofNat 16 c.length
          g := accOver 0xFFFF c
          cmdResult := .ok } := by
  simp only [frameSent, sends, encodeFrame_eq_restOfFrame, BitVec.ofNat_eq_ofNat, BitVec.zero_add]

theorem foldl_sends_open (c : List Byte) (s : State) :
    (c.map Instr.txByte ++ [Instr.txEnd]).foldl sends s = frameSent c s := by
  induction c generalizing s with
  | nil => exact (frameSent_nil s).symm
  | cons d c ih => exact (ih _).trans (frameSent_cons d c s).symm

theorem foldl_sends_encode (c : List Byte) (s : State) :
    (encodeCommands c).foldl sends s = frameSent c (sends s .txStart) := foldl_sends_open c _

end Sys2Proof.Machine
end

section
/-! SUPPORT. A frame written by a host that reads nothing (41_encoder.md R105, R107): each push is accepted exactly when
it fits, so the run is accepted exactly when the frame does. -/

namespace Sys2Proof.Machine

/-- There is room for a push exactly when the FIFO fits its capacity after it. Bytes pushed are never none, so this
holds of an overfull FIFO too. -/
theorem le_freeTx_iff {e : List Byte} (he : 0 < e.length) (s : State) :
    e.length ≤ freeTx s ↔ s.txFifo.length + e.length ≤ s.params.txCap := by
  unfold freeTx; omega

theorem escapeByte_length_pos (d : Byte) : 0 < (escapeByte d).length := by
  rw [escapeByte_length, wireLength]; split <;> decide

theorem frameTail_length_pos (g : Half) : 0 < (frameTail g).length := by
  rw [frameTail_length]; omega

theorem acceptedRun_txByte {s : State} (h : s.txPhase = .data) (d : Byte) (is : List Instr) :
    acceptedRun (.txByte d :: is) s
      = if s.txFifo.length + (escapeByte d).length ≤ s.params.txCap then acceptedRun is (sends s (.txByte d))
        else none := by
  simp only [← le_freeTx_iff (escapeByte_length_pos d)]
  split_ifs with hroom
  · exact acceptedRun_cons_ok (i := .txByte d) (execTxByte_push h hroom) rfl is
  · exact acceptedRun_cons_rejected (i := .txByte d) (execTxByte_full h (Nat.not_le.mp hroom)) (by simp) is

theorem acceptedRun_txEnd {s : State} (h : s.txPhase = .data) :
    acceptedRun [.txEnd] s
      = if s.txFifo.length + (frameTail s.g).length ≤ s.params.txCap then some (sends s .txEnd) else none := by
  simp only [← le_freeTx_iff (frameTail_length_pos s.g)]
  split_ifs with hroom
  · exact acceptedRun_cons_ok (i := .txEnd) (execTxEnd_push h hroom) rfl []
  · exact acceptedRun_cons_rejected (i := .txEnd) (execTxEnd_full h (Nat.not_le.mp hroom)) (by simp) []

theorem acceptedRun_open {s : State} (h : s.txPhase = .data) (c : List Byte) :
    acceptedRun (c.map .txByte ++ [.txEnd]) s
      = if s.txFifo.length + (restOfFrame s.g c).length ≤ s.params.txCap then some (frameSent c s) else none := by
  induction c generalizing s with
  | nil => exact (acceptedRun_txEnd h).trans (by rw [frameSent_nil, restOfFrame_nil])
  | cons d c ih =>
    rw [List.map_cons, List.cons_append, acceptedRun_txByte h, frameSent_cons, restOfFrame_cons, List.length_append]
    by_cases hroom : s.txFifo.length + (escapeByte d).length ≤ s.params.txCap
    · rw [if_pos hroom, ih (s := sends s (.txByte d)) h]
      simp only [sends, List.length_append, Nat.add_assoc]
    · rw [if_neg hroom, if_neg (by omega)]

/-- R105 and R107 for a host that reads nothing. -/
theorem acceptedRun_encode {s : State} (h : s.txPhase = .idle) (c : List Byte) :
    acceptedRun (encodeCommands c) s
      = if s.txFifo.length + (encodeFrame c).length ≤ s.params.txCap then some (frameSent c (sends s .txStart))
        else none := by
  rw [encodeFrame_eq_restOfFrame]
  exact (acceptedRun_cons_ok (exec_txStart_idle h) rfl _).trans (acceptedRun_open (s := sends s .txStart) rfl c)

end Sys2Proof.Machine
end

section
/-! SUPPORT. A frame written by a host that reads TXOUT as it likes (41_encoder.md R105): with the bytes it has read put
back in front of TX_FIFO, the block is the encoder whose FIFO always has room. -/

namespace Sys2Proof.Machine

/-- The state s with the bytes read so far put back in front of TX_FIFO, and CMD_RESULT no longer told apart. -/
def withReadBack (read : List Byte) (s : State) : State := { s with txFifo := read ++ s.txFifo, cmdResult := .ok }

/-- A rejection changes CMD_RESULT only (R150). -/
theorem CommandEffect.eq_setResult_of_rejected {i : Instr} {s t : State} (h : CommandEffect i s t)
    (hrej : t.cmdResult ≠ .ok) : t = setResult t.cmdResult s := by
  cases h with
  | sequence | full => rfl
  | _ => exact absurd rfl hrej

theorem withReadBack_setResult (read : List Byte) (c : CmdResult) (s : State) :
    withReadBack read (setResult c s) = withReadBack read s := rfl

/-- An encoder command that is not rejected sends the same whether or not earlier bytes have been read. -/
theorem CommandEffect.withReadBack_accepted {i : Instr} {s t : State} (h : CommandEffect i s t)
    (hi : EncoderCommand i) (hok : t.cmdResult = .ok) (read : List Byte) :
    withReadBack read t = sends (withReadBack read s) i := by
  cases h with
  | sequence | full => cases hok
  | txStart => rfl
  | txByte | txEnd => simp only [withReadBack, sends, List.append_assoc]
  | _ => exact absurd hi (by simp [EncoderCommand])

/-- A byte popped from TXOUT moves to the end of the bytes read. -/
theorem withReadBack_popped {s u : State} {b : Byte} (h : readReg .txout s = (validWord b, u)) (read : List Byte) :
    withReadBack (read ++ [b]) u = withReadBack read s := by
  obtain ⟨bs, hfifo, rfl⟩ := readReg_txout_valid h
  simp only [withReadBack, hfifo, List.append_assoc, List.singleton_append]

/-- The simulation: reads of TXOUT and FULL retries change nothing of what the commands send. -/
theorem Feeds.withReadBack_eq {is : List Instr} {s t : State} {bs : List Byte} (h : Feeds .txout is s bs t)
    (his : ∀ i ∈ is, EncoderCommand i) (read : List Byte) :
    withReadBack (read ++ bs) t = is.foldl sends (withReadBack read s) := by
  induction h generalizing read with
  | done s => rw [List.append_nil]; rfl
  | accepted hrun hok _ ih =>
    obtain ⟨hi, his⟩ := List.forall_mem_cons.mp his
    rw [ih his, (effect_of_exec hrun).withReadBack_accepted hi hok, List.foldl_cons]
  | retried hrun hfull _ ih =>
    rw [ih his, (effect_of_exec hrun).eq_setResult_of_rejected (by simp [hfull]), withReadBack_setResult]
  | popped hread _ ih =>
    rw [← withReadBack_popped hread, ← ih his, List.append_assoc, List.singleton_append]

end Sys2Proof.Machine
end

section
/-! SUPPORT. The bytes of a frame (41_encoder.md R100, R101, R106): how many there are, where the terminator is, and
what follows an escape marker. -/

namespace Sys2Proof.Machine

/-- Escaping adds one byte for each 0x7D and 0x7E. -/
theorem escapeAll_length (s : List Byte) :
    (escapeAll s).length = s.length + s.countP (fun b => b == 0x7D || b == 0x7E) := by
  induction s with
  | nil => rfl
  | cons b s ih =>
    have hb : (escapeByte b).length = 1 + if (b == 0x7D || b == 0x7E) = true then 1 else 0 := by
      rw [escapeByte_length, wireLength]
      simp only [Bool.or_eq_true, beq_iff_eq]
      split_ifs <;> rfl
    rw [escapeAll, List.length_append, ih, hb, List.length_cons, List.countP_cons]
    omega

theorem encodeFrame_length (c : List Byte) :
    (encodeFrame c).length
      = c.length + 3 + (c ++ fcsBytes (crc16 c)).countP (fun b => b == 0x7D || b == 0x7E) := by
  rw [encodeFrame, List.length_append, escapeAll_length, List.length_append, fcsBytes]
  simp only [List.length_cons, List.length_nil]
  omega

theorem encodeFrame_length_ge (c : List Byte) : c.length + 3 ≤ (encodeFrame c).length := by
  rw [encodeFrame_length]; exact Nat.le_add_right _ _

/-- Every byte escaped. -/
theorem encodeFrame_length_le (c : List Byte) : (encodeFrame c).length ≤ 2 * (c.length + 2) + 1 := by
  have hcount := (c ++ fcsBytes (crc16 c)).countP_le_length (p := fun b => b == 0x7D || b == 0x7E)
  have hfcs : (fcsBytes (crc16 c)).length = 2 := rfl
  rw [List.length_append, hfcs] at hcount
  rw [encodeFrame_length]
  omega

theorem flag_notMem_escapeAll (s : List Byte) : (0x7E : Byte) ∉ escapeAll s := by
  induction s with
  | nil => exact List.not_mem_nil
  | cons b s ih =>
    have hb : (0x7E : Byte) ∉ escapeByte b := by
      obtain ⟨-, h⟩ | ⟨-, h⟩ | ⟨-, hf, h⟩ := escapeByte_cases b
      · rw [h]; decide
      · rw [h]; decide
      · rw [h, List.mem_singleton]; exact Ne.symm hf
    rw [escapeAll, List.mem_append]
    exact not_or.mpr ⟨hb, ih⟩

/-- The list begins with the second byte of an escape pair. -/
def BeginsEscaped (q : List Byte) : Prop := ∃ x r, q = x :: r ∧ (x = 0x5D ∨ x = 0x5E)

/-- Every escape marker in the list begins an escape pair. -/
def MarkersPaired (l : List Byte) : Prop := ∀ p q, l = p ++ (0x7D : Byte) :: q → BeginsEscaped q

theorem MarkersPaired.cons {b : Byte} {l : List Byte} (hl : MarkersPaired l) (hb : b = 0x7D → BeginsEscaped l) :
    MarkersPaired (b :: l) := by
  intro p q h
  cases p with
  | nil =>
    obtain ⟨hhead, rfl⟩ := List.cons.inj h
    exact hb hhead
  | cons a p => exact hl p q (List.cons.inj h).2

theorem MarkersPaired.cons_of_ne {b : Byte} {l : List Byte} (hl : MarkersPaired l) (hb : b ≠ 0x7D) :
    MarkersPaired (b :: l) := hl.cons fun h => absurd h hb

theorem markersPaired_nil : MarkersPaired [] := fun p _ h => absurd h (by simp)

theorem markersPaired_escapeAll_append (s : List Byte) {l : List Byte} (hl : MarkersPaired l) :
    MarkersPaired (escapeAll s ++ l) := by
  induction s with
  | nil => exact hl
  | cons b s ih =>
    rw [escapeAll, List.append_assoc]
    obtain ⟨-, h⟩ | ⟨-, h⟩ | ⟨hm, -, h⟩ := escapeByte_cases b <;> rw [h]
    · exact (ih.cons_of_ne (b := 0x5D) (by decide)).cons fun _ => ⟨_, _, rfl, .inl rfl⟩
    · exact (ih.cons_of_ne (b := 0x5E) (by decide)).cons fun _ => ⟨_, _, rfl, .inr rfl⟩
    · exact ih.cons_of_ne hm

theorem markersPaired_encodeFrame (c : List Byte) : MarkersPaired (encodeFrame c) :=
  markersPaired_escapeAll_append _ (markersPaired_nil.cons_of_ne (by decide))

end Sys2Proof.Machine
end

section
/-! PROOFS. The statements about the frame encoder (41_encoder.md). -/

namespace Sys2Proof.Machine

/-- Settles O48: without reads the run is known whole; with reads and retries, by the simulation from no byte read. -/
theorem encoderProducesFrame : Obligations.EncoderProducesFrame := by
  intro c s hidle
  constructor
  · intro t hrun
    rw [acceptedRun_encode hidle, frameSent_txStart, ← hidle] at hrun
    split_ifs at hrun
    exact (Option.some.inj hrun).symm
  · intro bs t hfeeds
    have hsent := hfeeds.withReadBack_eq (fun _ => encoderCommand_of_mem) []
    rw [foldl_sends_encode, frameSent_txStart] at hsent
    exact ⟨congrArg State.txFifo hsent, congrArg State.txPhase hsent, congrArg State.txLen hsent,
      congrArg State.g hsent⟩

/-- Settles O49, from the escaped bytes and the terminator behind them. -/
theorem frameLengthAndShape : Obligations.FrameLengthAndShape := fun c =>
  ⟨encodeFrame_length c, encodeFrame_length_ge c, encodeFrame_length_le c,
    ⟨_, rfl, flag_notMem_escapeAll _⟩, markersPaired_encodeFrame c⟩

/-- Settles O50: the run is accepted exactly when the frame fits, and 133 bytes make at most 2 * 135 + 1. -/
theorem txRoomDecidesAcceptance : Obligations.TxRoomDecidesAcceptance := by
  have hrun : ∀ (c : List Byte) (s : State), s.txPhase = .idle →
      ((∃ t, acceptedRun (encodeCommands c) s = some t) ↔
        s.txFifo.length + (encodeFrame c).length ≤ s.params.txCap) := by
    intro c s hidle
    rw [acceptedRun_encode hidle]
    split_ifs with hroom
    · exact ⟨fun _ => hroom, fun _ => ⟨_, rfl⟩⟩
    · exact ⟨nofun, fun h => absurd h hroom⟩
  refine ⟨hrun, fun c hlen => ?_⟩
  have hworst : (encodeFrame c).length ≤ 271 := by
    have := encodeFrame_length_le c
    omega
  refine ⟨hworst, (hrun c State.reset rfl).mpr ?_⟩
  calc State.reset.txFifo.length + (encodeFrame c).length
      = (encodeFrame c).length := Nat.zero_add _
    _ ≤ 512 := hworst.trans (by decide)

/-- Settles O12. -/
theorem txStartRule : Obligations.TxStartRule :=
  ⟨datalessEncoding (i := .txStart) (by decide), fun _ => ⟨exec_txStart_idle, exec_txStart_data⟩⟩

/-- Settles O13: the three kinds of byte are those of `escapeByte`. -/
theorem txByteRule : Obligations.TxByteRule := by
  refine ⟨byteEncoding fun _ => rfl, fun s d e he => ?_⟩
  obtain rfl : e = escapeByte d := by
    obtain ⟨rfl, rfl⟩ | ⟨rfl, rfl⟩ | ⟨hm, hf, rfl⟩ := he
    · exact escapeByte_marker.symm
    · exact escapeByte_flag.symm
    · exact (escapeByte_other hm hf).symm
  exact ⟨fun h => execTxByte_idle h d, execTxByte_full, execTxByte_push⟩

/-- Settles O14: the bytes of the rule are what TX_END pushes. -/
theorem txEndRule : Obligations.TxEndRule := by
  refine ⟨datalessEncoding (i := .txEnd) (by decide), fun s e he => ?_⟩
  obtain rfl : e = frameTail s.g := he.trans (frameTail_eq s.g).symm
  exact ⟨execTxEnd_idle, execTxEnd_full, execTxEnd_push⟩

end Sys2Proof.Machine
end

section
/-! SUPPORT. Each effect of a command is the one that happens: where its condition holds, the command answers its state.
Above all for the decoder's commands, by RX_PHASE and the delay line (42_decoder.md R122 to R127). -/

namespace Sys2Proof.Machine

/-- A decoded byte goes to the delay line (R123, R124). -/
theorem exec_rxByte_decoded {s : State} {d x : Byte} (h : DecodesTo s d x) : exec (.rxByte d) s = takeDecoded x s := by
  obtain ⟨hphase, hm, hf, rfl⟩ | ⟨hphase, rfl⟩ := h
  · simp only [exec, execRxByte, hphase, Config.flag, Config.esc, hm, hf, if_false]
  · simp only [exec, execRxByte, hphase, Config.xmask]

theorem exec_rxByte_held {s : State} {d x : Byte} (h : DecodesTo s d x) (hhold : s.rxHold.length ≠ 2) :
    exec (.rxByte d) s = .next { s with rxHold := s.rxHold ++ [x], rxPhase := .data, cmdResult := .ok } := by
  rw [exec_rxByte_decoded h, takeDecoded, rxTake_hold hhold]; rfl

theorem exec_rxByte_full {s : State} {d x c h : Byte} (hd : DecodesTo s d x) (hhold : s.rxHold = [c, h])
    (hfull : s.rxFifo.length = s.params.rxCap) : exec (.rxByte d) s = .next { s with cmdResult := .full } := by
  rw [exec_rxByte_decoded hd, takeDecoded, rxTake_full hhold hfull]; rfl

theorem exec_rxByte_committed {s : State} {d x c h : Byte} (hd : DecodesTo s d x) (hhold : s.rxHold = [c, h])
    (hroom : s.rxFifo.length ≠ s.params.rxCap) :
    exec (.rxByte d) s = .next { s with
      rxHold := [h, x], rxFifo := s.rxFifo ++ [c], rxAcc := crcStep s.rxAcc c, rxLen := s.rxLen + 1
      rxPhase := .data, cmdResult := .ok } := by
  rw [exec_rxByte_decoded hd, takeDecoded, rxTake_commit hhold hroom]; rfl

theorem exec_rxByte_marker {s : State} (h : s.rxPhase = .data) :
    exec (.rxByte 0x7D) s = .next { s with rxPhase := .esc, cmdResult := .ok } := by
  simp only [exec, execRxByte, h]; rfl

theorem exec_rxByte_flag {s : State} (h : s.rxPhase = .data) : exec (.rxByte 0x7E) s = complete (rxTerminate s) := by
  simp only [exec, execRxByte, h]; rfl

theorem exec_rxByte_idle {s : State} (h : s.rxPhase = .idle) (d : Byte) :
    exec (.rxByte d) s = .next { s with cmdResult := .sequence } := by
  simp only [exec, execRxByte, h, reject_eq]

theorem exec_rxByte_over {s : State} (h : s.rxPhase = .done ∨ s.rxPhase = .fail) (d : Byte) :
    exec (.rxByte d) s = .next { s with cmdResult := .ok } := by
  obtain h | h := h <;> simp only [exec, execRxByte, h, complete_eq]

theorem exec_rxEnd_idle {s : State} (h : s.rxPhase = .idle) :
    exec .rxEnd s = .next { s with cmdResult := .sequence } := by
  simp only [exec, execRxEnd, h, reject_eq]

theorem exec_rxEnd_open {s : State} (h : s.rxPhase = .data ∨ s.rxPhase = .esc) :
    exec .rxEnd s = .next { failRx .noTerminator s with cmdResult := .ok } := by
  obtain h | h := h <;> simp only [exec, execRxEnd, h, complete_eq]

theorem exec_rxEnd_over {s : State} (h : s.rxPhase = .done ∨ s.rxPhase = .fail) :
    exec .rxEnd s = .next { s with cmdResult := .ok } := by
  obtain h | h := h <;> simp only [exec, execRxEnd, h, complete_eq]

/-- SEQUENCE wherever R152 lists it. -/
theorem exec_outOfSequence {i : Instr} {s : State} (h : OutOfSequence i s) :
    exec i s = .next { s with cmdResult := .sequence } := by
  cases i with
  | nop | rxStart | softReset => exact h.elim
  | crcInit => exact exec_crcInit_data h
  | crcByte d => exact exec_crcByte_data h d
  | txStart => exact exec_txStart_data h
  | txByte d => exact execTxByte_idle h d
  | txEnd => exact execTxEnd_idle h
  | rxByte d => exact exec_rxByte_idle h d
  | rxEnd => exact exec_rxEnd_idle h

theorem txPhase_data_of_ne_idle {s : State} (h : s.txPhase ≠ .idle) : s.txPhase = .data := by
  cases hphase : s.txPhase with
  | idle => exact absurd hphase h
  | data => rfl

/-- The phase and the byte of an RX_BYTE that needs room decode to some byte (R124). -/
theorem exists_decodesTo {s : State} {d : Byte} (h : s.rxPhase = .esc ∨ s.rxPhase = .data ∧ d ≠ 0x7D ∧ d ≠ 0x7E) :
    ∃ x, DecodesTo s d x := by
  obtain hesc | ⟨hdata, hm, hf⟩ := h
  · exact ⟨_, .inr ⟨hesc, rfl⟩⟩
  · exact ⟨_, .inl ⟨hdata, hm, hf, rfl⟩⟩

/-- FULL wherever R152 lists it and SEQUENCE does not go before it (R155). -/
theorem exec_noRoom {i : Instr} {s : State} (hseq : ¬ OutOfSequence i s) (h : NoRoom i s) :
    exec i s = .next { s with cmdResult := .full } := by
  cases i with
  | nop | crcInit | crcByte | txStart | rxStart | rxEnd | softReset => exact h.elim
  | txByte d => exact execTxByte_full (txPhase_data_of_ne_idle hseq) (by rwa [escapeByte_length])
  | txEnd => exact execTxEnd_full (txPhase_data_of_ne_idle hseq) (by rwa [frameTail_length])
  | rxByte d =>
    obtain ⟨hhold, hfull, hphase⟩ := h
    obtain ⟨c, b, hhold⟩ := List.length_eq_two.mp hhold
    obtain ⟨x, hd⟩ := exists_decodesTo hphase
    exact exec_rxByte_full hd hhold hfull

/-- An effect whose condition holds is what the command does: with `exec_effect`, a command has exactly one. -/
theorem CommandEffect.exec_eq {i : Instr} {s t : State} (h : CommandEffect i s t) : exec i s = .next t := by
  cases h with
  | sequence hseq => exact exec_outOfSequence hseq
  | full hseq hroom => exact exec_noRoom hseq hroom
  | nop | rxStart | softReset => rfl
  | crcInit hidle => exact exec_crcInit_idle hidle
  | crcByte hidle => exact exec_crcByte_idle hidle _
  | txStart hidle => exact exec_txStart_idle hidle
  | txByte hdata hroom => exact execTxByte_push hdata hroom
  | txEnd hdata hroom => exact execTxEnd_push hdata hroom
  | rxMarker hdata => exact exec_rxByte_marker hdata
  | rxHeld hd hhold => exact exec_rxByte_held hd hhold
  | rxCommitted hd hhold hroom => exact exec_rxByte_committed hd hhold hroom
  | rxShort hdata hhold => rw [exec_rxByte_flag hdata, rxTerminate_short hhold, complete_eq]
  | rxDone hdata hhold => rw [exec_rxByte_flag hdata, rxTerminate_done hhold, complete_eq]
  | rxByteIgnored hover => exact exec_rxByte_over hover _
  | rxUnterminated hopen => exact exec_rxEnd_open hopen
  | rxEndIgnored hover => exact exec_rxEnd_over hover

end Sys2Proof.Machine
end

section
/-! SUPPORT. What the decoder's outcome depends on: no effect of a command turns on the checksum (42_decoder.md R130),
and two effects alone end a frame as failed (R126). -/

namespace Sys2Proof.Machine

/-- The state s with another accumulator and another outcome of the comparison. -/
def withChecksum (acc : Half) (hit : Bool) (s : State) : State := { s with rxAcc := acc, crcMatch := hit }

/-- No condition of an effect reads RX_ACC or CRC_MATCH, and no effect writes either to another element (R130). -/
theorem CommandEffect.ignores_checksum {i : Instr} {s t : State} (h : CommandEffect i s t) (acc : Half) (hit : Bool) :
    ∃ acc' hit', CommandEffect i (withChecksum acc hit s) (withChecksum acc' hit' t) := by
  cases h with
  | sequence hseq => exact ⟨_, _, .sequence (by cases i <;> exact hseq)⟩
  | full hseq hroom => exact ⟨_, _, .full (by cases i <;> exact hseq) (by cases i <;> exact hroom)⟩
  | nop => exact ⟨_, _, .nop⟩
  | crcInit hidle => exact ⟨_, _, .crcInit hidle⟩
  | crcByte hidle => exact ⟨_, _, .crcByte hidle⟩
  | txStart hidle => exact ⟨_, _, .txStart hidle⟩
  | txByte hdata hroom => exact ⟨_, _, .txByte hdata hroom⟩
  | txEnd hdata hroom => exact ⟨_, _, .txEnd hdata hroom⟩
  | rxStart => exact ⟨_, _, .rxStart⟩
  | rxMarker hdata => exact ⟨_, _, .rxMarker hdata⟩
  | rxHeld hd hhold => exact ⟨_, _, .rxHeld hd hhold⟩
  | rxCommitted hd hhold hroom => exact ⟨_, _, .rxCommitted hd hhold hroom⟩
  | rxShort hdata hhold => exact ⟨_, _, .rxShort hdata hhold⟩
  | rxDone hdata hhold => exact ⟨_, _, .rxDone hdata hhold⟩
  | rxByteIgnored hover => exact ⟨_, _, .rxByteIgnored hover⟩
  | rxUnterminated hopen => exact ⟨_, _, .rxUnterminated hopen⟩
  | rxEndIgnored hover => exact ⟨_, _, .rxEndIgnored hover⟩
  | softReset => exact ⟨_, _, .softReset⟩

/-- The two effects that end a frame as failed (R126). -/
theorem CommandEffect.failure {i : Instr} {s t : State} (h : CommandEffect i s t) (hs : s.rxPhase ≠ .fail)
    (ht : t.rxPhase = .fail) :
    t = { failRx t.rxErr s with cmdResult := .ok }
      ∧ (t.rxErr = .noTerminator ∧ i = .rxEnd ∧ (s.rxPhase = .data ∨ s.rxPhase = .esc)
        ∨ t.rxErr = .shortFrame ∧ i = .rxByte 0x7E ∧ s.rxPhase = .data ∧ s.rxHold.length < 2) := by
  cases h with
  | rxUnterminated hopen => exact ⟨rfl, .inl ⟨rfl, rfl, hopen⟩⟩
  | rxShort hdata hhold => exact ⟨rfl, .inr ⟨rfl, rfl, hdata, hhold⟩⟩
  | rxStart | rxMarker | rxHeld | rxCommitted | rxDone | softReset => cases ht
  | sequence | full | nop | crcInit | crcByte | txStart | txByte | txEnd | rxByteIgnored | rxEndIgnored =>
    exact absurd ht hs

end Sys2Proof.Machine
end

section
/-! SUPPORT. The loop of `decode` taken one raw byte at a time (42_decoder.md R120): how far it has come after some of
the stream, and what that says of the rest. -/

namespace Sys2Proof.Machine

/-- How far the loop of R120 has come: the bytes decoded so far, inside an escape pair or not, or the result. -/
inductive Progress where
  | data (d : List Byte)
  | esc (d : List Byte)
  | ended (res : FrameResult)

namespace Progress

/-- One raw byte. Behind the terminator it is not examined. -/
def take (v : Progress) (b : Byte) : Progress :=
  match v with
  | .data d => if b = 0x7E then .ended (finishFrame d) else if b = 0x7D then .esc d else .data (d ++ [b])
  | .esc d => .data (d ++ [b ^^^ 0x20])
  | .ended res => .ended res

/-- The result where the stream ends here. -/
def result (v : Progress) : FrameResult :=
  match v with
  | .data _ => .fail .noTerminator
  | .esc _ => .fail .noTerminator
  | .ended res => res

/-- A command of the decoder inside a frame: a raw byte, or the end of the stream. -/
def feed (v : Progress) (i : Instr) : Progress :=
  match i with
  | .rxByte b => v.take b
  | .rxEnd => .ended v.result
  | _ => v

theorem take_data_flag (d : List Byte) : (data d).take 0x7E = ended (finishFrame d) := rfl

theorem take_data_marker (d : List Byte) : (data d).take 0x7D = esc d := rfl

theorem take_data_other (d : List Byte) {b : Byte} (hm : b ≠ 0x7D) (hf : b ≠ 0x7E) :
    (data d).take b = data (d ++ [b]) := by rw [take, if_neg hf, if_neg hm]

theorem take_esc (d : List Byte) (b : Byte) : (esc d).take b = data (d ++ [b ^^^ 0x20]) := rfl

theorem foldl_take_ended (res : FrameResult) (r : List Byte) : r.foldl take (ended res) = ended res := by
  induction r with
  | nil => rfl
  | cons b r ih => exact ih

/-- The commands of a stream and its end give the result of the loop over its bytes. -/
theorem foldl_feed_stream (r : List Byte) (v : Progress) :
    (r.map Instr.rxByte ++ [Instr.rxEnd]).foldl feed v = ended (r.foldl take v).result := by
  rw [List.foldl_append, List.foldl_map]; rfl

/-- The bytes of an escaped byte decode to it (R100). -/
theorem foldl_take_escapeByte (d : List Byte) (b : Byte) : (escapeByte b).foldl take (data d) = data (d ++ [b]) := by
  obtain ⟨rfl, h⟩ | ⟨rfl, h⟩ | ⟨hm, hf, h⟩ := escapeByte_cases b <;> rw [h]
  · rfl
  · rfl
  · exact take_data_other d hm hf

theorem foldl_take_escapeAll (d s : List Byte) : (escapeAll s).foldl take (data d) = data (d ++ s) := by
  induction s generalizing d with
  | nil => rw [List.append_nil]; rfl
  | cons b s ih =>
    rw [escapeAll, List.foldl_append, foldl_take_escapeByte, ih, List.append_assoc, List.singleton_append]

/-- A whole frame, and whatever follows it (R101). -/
theorem foldl_take_encodeFrame (c t : List Byte) :
    (encodeFrame c ++ t).foldl take (data []) = ended (.ok c (crc16 c)) := by
  rw [encodeFrame, List.append_assoc, List.foldl_append, foldl_take_escapeAll, List.singleton_append, List.foldl_cons]
  have hfinish : finishFrame ([] ++ (c ++ fcsBytes (crc16 c))) = .ok c (crc16 c) := by
    rw [List.nil_append, fcsBytes, finishFrame_ok, halfOfBytes_bytes]
  exact (congrArg (t.foldl take <| ended ·) hfinish).trans (foldl_take_ended _ t)

/-- At least n bytes have been decoded, the two of the checksum included; said of no failed frame. -/
def AtLeast (n : Nat) (v : Progress) : Prop :=
  match v with
  | .data d => n ≤ d.length
  | .esc d => n ≤ d.length
  | .ended (.ok p _) => n ≤ p.length + 2
  | .ended (.fail _) => True

theorem atLeast_finishFrame {n : Nat} {d : List Byte} (h : n ≤ d.length) : AtLeast n (ended (finishFrame d)) := by
  unfold finishFrame
  split
  next => simp only [AtLeast, List.length_take]; omega
  next => trivial

theorem AtLeast.take {n : Nat} {v : Progress} (h : AtLeast n v) (b : Byte) : AtLeast n (v.take b) := by
  cases v with
  | data d =>
    have hmore : n ≤ (d ++ [b]).length := h.trans (by simp)
    unfold Progress.take
    split_ifs
    · exact atLeast_finishFrame h
    · exact h
    · exact hmore
  | esc d => exact Nat.le_trans h (by simp)
  | ended res => exact h

/-- What has been decoded is never taken back. -/
theorem AtLeast.foldl_feed {n : Nat} {v : Progress} (h : AtLeast n v) (is : List Instr) :
    AtLeast n (is.foldl feed v) := by
  induction is generalizing v with
  | nil => exact h
  | cons i is ih =>
    refine ih ?_
    cases i with
    | rxByte b => exact h.take b
    | rxEnd => cases v with
      | data | esc => trivial
      | ended res => exact h
    | _ => exact h

end Progress

/-- `decode` is its loop, byte by byte. -/
theorem decodeFrom_eq (d r : List Byte) : decodeFrom d r = (r.foldl Progress.take (.data d)).result := by
  match r with
  | [] => rfl
  | b :: r =>
    rw [decodeFrom_cons, List.foldl_cons]
    split_ifs with hflag hmarker
    · rw [hflag, Progress.take_data_flag, Progress.foldl_take_ended]; rfl
    · rw [hmarker, Progress.take_data_marker]
      match r with
      | [] => rfl
      | x :: rest => exact decodeFrom_eq (d ++ [x ^^^ 0x20]) rest
    · rw [Progress.take_data_other d hmarker hflag]
      exact decodeFrom_eq (d ++ [b]) r

theorem decodeFrame_eq (r : List Byte) : decodeFrame r = (r.foldl Progress.take (.data [])).result := decodeFrom_eq [] r

/-- A stream that has a result other than NO_TERMINATOR has reached it: nothing behind it is examined. -/
theorem foldl_take_of_decodeFrame {r : List Byte} (h : decodeFrame r ≠ .fail .noTerminator) :
    r.foldl Progress.take (.data []) = .ended (decodeFrame r) := by
  rw [decodeFrame_eq] at h ⊢
  cases hv : r.foldl Progress.take (.data []) with
  | data d | esc d => rw [hv] at h; exact absurd rfl h
  | ended res => rfl

end Sys2Proof.Machine
end

section
/-! SUPPORT. The decoder engine against the loop of `decode` (42_decoder.md R128): with the bytes the host has read put
back in front of RX_FIFO, the block shows how far the loop has come, and every command, read and retry keeps that. -/

namespace Sys2Proof.Machine

/-- In an open frame the payload and the delay line are the bytes decoded so far, the last two of them held back; the
counter and the accumulator are over the payload (R25 to R28). -/
structure Receiving (s : State) (d : List Byte) : Prop where
  decoded : s.rxFifo ++ s.rxHold = d
  held : s.rxHold.length = min 2 d.length
  rxLen : s.rxLen = BitVec.ofNat 16 s.rxFifo.length
  rxAcc : s.rxAcc = accOver 0xFFFF s.rxFifo

/-- The decoder of the block has ended as the result says (R128). -/
def Shows (s : State) (res : FrameResult) : Prop :=
  match res with
  | .ok p f =>
    s.rxPhase = .done ∧ s.rxFifo = p ∧ s.rxLen = BitVec.ofNat 16 p.length ∧ s.rxFcs = f
      ∧ (s.crcMatch = true ↔ f = crc16 p)
  | .fail e => s.rxPhase = .fail ∧ s.rxErr = e ∧ (e = .noTerminator ∨ e = .shortFrame)

/-- The decoder of the block has come as far as the loop. -/
def Tracks (s : State) (v : Progress) : Prop :=
  match v with
  | .data d => s.rxPhase = .data ∧ Receiving s d
  | .esc d => s.rxPhase = .esc ∧ Receiving s d
  | .ended res => Shows s res

theorem Shows.phase {s : State} {res : FrameResult} (h : Shows s res) : s.rxPhase = .done ∨ s.rxPhase = .fail := by
  cases res with
  | ok p f => exact .inl h.1
  | fail e => exact .inr h.1

theorem Tracks.of_data {s : State} {v : Progress} (h : Tracks s v) (hdata : s.rxPhase = .data) :
    ∃ d, v = .data d ∧ Receiving s d := by
  cases v with
  | data d => exact ⟨d, rfl, h.2⟩
  | esc d => rw [h.1] at hdata; cases hdata
  | ended res => obtain hover | hover := h.phase <;> rw [hover] at hdata <;> cases hdata

theorem Tracks.of_esc {s : State} {v : Progress} (h : Tracks s v) (hesc : s.rxPhase = .esc) :
    ∃ d, v = .esc d ∧ Receiving s d := by
  cases v with
  | data d => rw [h.1] at hesc; cases hesc
  | esc d => exact ⟨d, rfl, h.2⟩
  | ended res => obtain hover | hover := h.phase <;> rw [hover] at hesc <;> cases hesc

theorem Tracks.of_ended {s : State} {v : Progress} (h : Tracks s v) (hover : s.rxPhase = .done ∨ s.rxPhase = .fail) :
    ∃ res, v = .ended res ∧ Shows s res := by
  cases v with
  | data d | esc d => rw [h.1] at hover; obtain hover | hover := hover <;> cases hover
  | ended res => exact ⟨res, rfl, h⟩

theorem Tracks.ne_idle {s : State} {v : Progress} (h : Tracks s v) : s.rxPhase ≠ .idle := by
  cases v with
  | data d | esc d => rw [h.1]; nofun
  | ended res => obtain hover | hover := h.phase <;> rw [hover] <;> nofun

/-- The byte RX_BYTE brings is the byte the loop decodes. -/
theorem Tracks.of_decodesTo {s : State} {v : Progress} {b x : Byte} (h : Tracks s v) (hd : DecodesTo s b x) :
    ∃ d, v.take b = .data (d ++ [x]) ∧ Receiving s d := by
  obtain ⟨hdata, hm, hf, rfl⟩ | ⟨hesc, rfl⟩ := hd
  · obtain ⟨d, rfl, hrec⟩ := h.of_data hdata
    exact ⟨d, Progress.take_data_other d hm hf, hrec⟩
  · obtain ⟨d, rfl, hrec⟩ := h.of_esc hesc
    exact ⟨d, Progress.take_esc d b, hrec⟩

/-- While the delay line has other than two bytes, they are all the bytes decoded so far. -/
theorem Receiving.all_held {s : State} {d : List Byte} (h : Receiving s d) (hhold : s.rxHold.length ≠ 2) :
    d.length < 2 ∧ s.rxFifo = [] ∧ s.rxHold = d := by
  have hlen : s.rxFifo.length + s.rxHold.length = d.length := by rw [← h.decoded, List.length_append]
  have hheld := h.held
  have hnil : s.rxFifo = [] := List.length_eq_zero_iff.mp (by omega)
  exact ⟨by omega, hnil, by rw [← h.decoded, hnil, List.nil_append]⟩

theorem Receiving.two_held {s : State} {d : List Byte} (h : Receiving s d) (hhold : s.rxHold.length = 2) :
    d.length = s.rxFifo.length + 2 := by rw [← h.decoded, List.length_append, hhold]

/-- The state s with the bytes read so far put back in front of RX_FIFO, and CMD_RESULT no longer told apart. -/
def withRxReadBack (read : List Byte) (s : State) : State := { s with rxFifo := read ++ s.rxFifo, cmdResult := .ok }

theorem withRxReadBack_setResult (read : List Byte) (c : CmdResult) (s : State) :
    withRxReadBack read (setResult c s) = withRxReadBack read s := rfl

/-- A byte popped from RXOUT moves to the end of the bytes read. -/
theorem withRxReadBack_popped {s u : State} {b : Byte} (h : readReg .rxout s = (validWord b, u)) (read : List Byte) :
    withRxReadBack (read ++ [b]) u = withRxReadBack read s := by
  obtain ⟨bs, hfifo, rfl⟩ := readReg_rxout_valid h
  simp only [withRxReadBack, hfifo, List.append_assoc, List.singleton_append]

/-- A byte that joins the delay line. -/
theorem Receiving.hold {read d : List Byte} {s : State} (h : Receiving (withRxReadBack read s) d)
    (hhold : s.rxHold.length ≠ 2) (x : Byte) (c : CmdResult) :
    Receiving (withRxReadBack read { s with rxHold := s.rxHold ++ [x], rxPhase := .data, cmdResult := c })
      (d ++ [x]) where
  decoded := by rw [← h.decoded]; exact (List.append_assoc ..).symm
  held := by
    obtain ⟨hlt, -, hd⟩ := h.all_held hhold
    rw [← hd] at hlt ⊢
    simp only [withRxReadBack, List.length_append, List.length_singleton] at hlt ⊢
    omega
  rxLen := h.rxLen
  rxAcc := h.rxAcc

theorem ofNat_length_concat (p : List Byte) (b : Byte) :
    BitVec.ofNat 16 (p ++ [b]).length = BitVec.ofNat 16 p.length + 1 := by
  rw [List.length_append, List.length_singleton, BitVec.ofNat_add]; rfl

/-- A byte that pushes the oldest held byte out to the payload. -/
theorem Receiving.commit {read d : List Byte} {s : State} {c h : Byte} (hrec : Receiving (withRxReadBack read s) d)
    (hhold : s.rxHold = [c, h]) (x : Byte) :
    Receiving (withRxReadBack read { s with
        rxHold := [h, x], rxFifo := s.rxFifo ++ [c], rxAcc := crcStep s.rxAcc c, rxLen := s.rxLen + 1
        rxPhase := .data, cmdResult := .ok })
      (d ++ [x]) where
  decoded := by
    rw [← hrec.decoded]
    simp only [withRxReadBack, hhold, List.append_assoc, List.cons_append, List.nil_append]
  held := by
    have hd := hrec.two_held (by simp [withRxReadBack, hhold])
    rw [List.length_append, hd]
    simp only [withRxReadBack, List.length_cons, List.length_nil]
    omega
  rxLen := by
    have hlen : s.rxLen = BitVec.ofNat 16 (read ++ s.rxFifo).length := hrec.rxLen
    simp only [withRxReadBack, ← List.append_assoc, ofNat_length_concat, hlen]
  rxAcc := by
    have hacc : s.rxAcc = accOver 0xFFFF (read ++ s.rxFifo) := hrec.rxAcc
    simp only [withRxReadBack, ← List.append_assoc, accOver_append, accOver, ← hacc]

/-- A terminator behind fewer than two bytes (R127). -/
theorem Receiving.finish_short {s : State} {d : List Byte} (h : Receiving s d) (hhold : s.rxHold.length < 2) :
    finishFrame d = .fail .shortFrame := finishFrame_short (h.all_held hhold.ne).1

/-- A terminator behind the two bytes of the checksum (R127). -/
theorem Receiving.finish_ok {s : State} {d rest : List Byte} {lo hi : Byte} (h : Receiving s d)
    (hhold : s.rxHold = lo :: hi :: rest) : finishFrame d = .ok s.rxFifo (halfOfBytes lo hi) := by
  have hheld := h.held
  have hrest : rest = [] := by
    rw [hhold, List.length_cons, List.length_cons] at hheld
    exact List.length_eq_zero_iff.mp (by omega)
  rw [← h.decoded, hhold, hrest, finishFrame_ok]

/-- CRC_MATCH compares the received checksum with that of the payload (R30, R91). -/
theorem Receiving.fcsMatches_iff {s : State} {d : List Byte} (h : Receiving s d) (fcs : Half) :
    fcsMatches fcs s.rxAcc = true ↔ fcs = crc16 s.rxFifo := by
  rw [fcsMatches, beq_iff_eq, h.rxAcc, ← crcFinal_eq]; rfl

/-- The commands inside a decoder frame. -/
def DecoderCommand (i : Instr) : Prop := (∃ d, i = .rxByte d) ∨ i = .rxEnd

theorem decoderCommand_of_mem {r : List Byte} {i : Instr} (h : i ∈ r.map Instr.rxByte ++ [Instr.rxEnd]) :
    DecoderCommand i := by
  simp only [List.mem_append, List.mem_map, List.mem_singleton] at h
  obtain ⟨d, -, h⟩ | h := h
  · exact .inl ⟨d, h.symm⟩
  · exact .inr h

/-- The commuting diagram: a decoder command that is not rejected takes the block as far as its byte takes the loop,
whether or not earlier bytes have been read. -/
theorem CommandEffect.tracks {i : Instr} {s t : State} {read : List Byte} {v : Progress} (h : CommandEffect i s t)
    (hi : DecoderCommand i) (hok : t.cmdResult = .ok) (hs : Tracks (withRxReadBack read s) v) :
    Tracks (withRxReadBack read t) (v.feed i) := by
  cases h with
  | sequence | full => cases hok
  | rxMarker hdata =>
    obtain ⟨d, rfl, hrec⟩ := hs.of_data hdata
    exact ⟨rfl, { hrec with }⟩
  | rxHeld hd hhold =>
    obtain ⟨d, htake, hrec⟩ := hs.of_decodesTo hd
    rw [Progress.feed, htake]
    exact ⟨rfl, hrec.hold hhold _ _⟩
  | rxCommitted hd hhold =>
    obtain ⟨d, htake, hrec⟩ := hs.of_decodesTo hd
    rw [Progress.feed, htake]
    exact ⟨rfl, hrec.commit hhold _⟩
  | rxShort hdata hhold =>
    obtain ⟨d, rfl, hrec⟩ := hs.of_data hdata
    rw [Progress.feed, Progress.take_data_flag, hrec.finish_short hhold]
    exact ⟨rfl, rfl, .inr rfl⟩
  | rxDone hdata hhold =>
    obtain ⟨d, rfl, hrec⟩ := hs.of_data hdata
    rw [Progress.feed, Progress.take_data_flag, hrec.finish_ok hhold]
    exact ⟨rfl, rfl, hrec.rxLen, rfl, hrec.fcsMatches_iff _⟩
  | rxUnterminated hopen =>
    obtain hdata | hesc := hopen
    · obtain ⟨d, rfl, -⟩ := hs.of_data hdata
      exact ⟨rfl, rfl, .inl rfl⟩
    · obtain ⟨d, rfl, -⟩ := hs.of_esc hesc
      exact ⟨rfl, rfl, .inl rfl⟩
  | rxByteIgnored hover | rxEndIgnored hover =>
    obtain ⟨res, rfl, hshows⟩ := hs.of_ended hover
    exact hshows
  | _ => exact absurd hi (by simp [DecoderCommand])

/-- The simulation (R128): reads of RXOUT and FULL retries change nothing of how far the commands take the loop. -/
theorem Feeds.tracks {is : List Instr} {s t : State} {bs read : List Byte} {v : Progress} (h : Feeds .rxout is s bs t)
    (his : ∀ i ∈ is, DecoderCommand i) (hs : Tracks (withRxReadBack read s) v) :
    Tracks (withRxReadBack (read ++ bs) t) (is.foldl Progress.feed v) := by
  induction h generalizing read v with
  | done s => rwa [List.append_nil]
  | accepted hrun hok _ ih =>
    obtain ⟨hi, his⟩ := List.forall_mem_cons.mp his
    exact ih his ((effect_of_exec hrun).tracks hi hok hs)
  | retried hrun hfull _ ih =>
    refine ih his ?_
    rwa [(effect_of_exec hrun).eq_setResult_of_rejected (by simp [hfull]), withRxReadBack_setResult]
  | @popped is s b u bs t hread _ ih =>
    rw [← List.singleton_append, ← List.append_assoc]
    exact ih his (by rwa [withRxReadBack_popped hread])

/-- RX_START opens a frame of no bytes, from every state (R122). -/
theorem tracks_rxStart {s t : State} (h : exec .rxStart s = .next t) :
    Tracks (withRxReadBack [] t) (.data []) := by
  cases h
  exact ⟨rfl, ⟨rfl, rfl, rfl, rfl⟩⟩

end Sys2Proof.Machine
end

section
/-! SUPPORT. A stream written by a host that reads nothing (42_decoder.md R131): a commit is rejected exactly when the
payload would outgrow RX_FIFO, and what is decoded is never taken back. -/

namespace Sys2Proof.Machine

/-- A commit has room in RX_FIFO, so a FIFO that fits goes on fitting. -/
theorem CommandEffect.rxFifo_fits {i : Instr} {s t : State} (h : CommandEffect i s t)
    (hs : s.rxFifo.length ≤ s.params.rxCap) : t.rxFifo.length ≤ t.params.rxCap := by
  cases h with
  | rxCommitted _ _ hroom =>
    simp only [List.length_append, List.length_singleton]
    omega
  | rxStart | softReset => exact Nat.zero_le _
  | _ => exact hs

/-- Inside a frame a command is rejected only with RX_FIFO full, and then the payload cannot fit. -/
theorem CommandEffect.atLeast_of_rejected {i : Instr} {s t : State} {v : Progress} (h : CommandEffect i s t)
    (hi : DecoderCommand i) (hrej : t.cmdResult ≠ .ok) (hs : Tracks (withRxReadBack [] s) v) :
    (v.feed i).AtLeast (s.params.rxCap + 3) := by
  cases h with
  | sequence hseq =>
    have hidle : s.rxPhase = .idle := by obtain ⟨d, rfl⟩ | rfl := hi <;> exact hseq
    exact absurd hidle hs.ne_idle
  | full _ hroom =>
    obtain ⟨b, rfl⟩ | rfl := hi
    · obtain ⟨hhold, hfull, hphase⟩ := hroom
      obtain ⟨x, hd⟩ := exists_decodesTo hphase
      obtain ⟨d, htake, hrec⟩ := hs.of_decodesTo hd
      have hlen : d.length = s.rxFifo.length + 2 := hrec.two_held hhold
      rw [Progress.feed, htake, Progress.AtLeast, List.length_append, hlen, hfull, List.length_singleton]
    · exact hroom.elim
  | _ => exact absurd rfl hrej

/-- The commands of a stream that decodes to p are all accepted exactly when p fits. -/
theorem acceptedRun_iff_fits {is : List Instr} (his : ∀ i ∈ is, DecoderCommand i) {s : State} {v : Progress}
    {p : List Byte} {f : Half} (hs : Tracks (withRxReadBack [] s) v) (hfits : s.rxFifo.length ≤ s.params.rxCap)
    (hend : is.foldl Progress.feed v = .ended (.ok p f)) :
    (∃ t, acceptedRun is s = some t) ↔ p.length ≤ s.params.rxCap := by
  induction is generalizing s v with
  | nil =>
    obtain rfl : v = .ended (.ok p f) := hend
    obtain ⟨-, rfl, -⟩ := hs
    exact ⟨fun _ => hfits, fun _ => ⟨s, rfl⟩⟩
  | cons i is ih =>
    obtain ⟨hi, his⟩ := List.forall_mem_cons.mp his
    obtain ⟨t, hexec, heffect⟩ := exec_effect i s
    by_cases hok : t.cmdResult = .ok
    · rw [acceptedRun_cons_ok hexec hok, ← heffect.host_side.1]
      exact ih his (heffect.tracks hi hok hs) (heffect.rxFifo_fits hfits) hend
    · have hlong := (heffect.atLeast_of_rejected hi hok hs).foldl_feed is
      rw [← List.foldl_cons, hend, Progress.AtLeast] at hlong
      rw [acceptedRun_cons_rejected hexec hok]
      exact ⟨nofun, fun hp => by omega⟩

end Sys2Proof.Machine
end

section
/-! PROOFS. The statements about the frame decoder (42_decoder.md). -/

namespace Sys2Proof.Machine

/-- Settles O51: the simulation from RX_START, with the loop of `decode` run to its end. -/
theorem decoderComputesDecode : Obligations.DecoderComputesDecode := by
  intro r s s₁ bs t hstart hfeeds
  have htracks := hfeeds.tracks (fun _ => decoderCommand_of_mem) (tracks_rxStart hstart)
  rw [Progress.foldl_feed_stream, ← decodeFrame_eq, List.nil_append] at htracks
  cases hres : decodeFrame r with
  | ok p f => rw [hres] at htracks; exact htracks
  | fail e => rw [hres] at htracks; exact htracks

/-- Settles O52: escaping is undone byte by byte, and the block computes `decode`. -/
theorem roundTrip : Obligations.RoundTrip := by
  intro c t
  have hdecode : decodeFrame (encodeFrame c ++ t) = .ok c (crc16 c) := by
    rw [decodeFrame_eq, Progress.foldl_take_encodeFrame]; rfl
  refine ⟨hdecode, fun s s₁ bs u hstart hfeeds => ?_⟩
  have hshows := decoderComputesDecode _ s s₁ bs u hstart hfeeds
  rw [hdecode] at hshows
  obtain ⟨hdone, hpayload, -, -, hmatch⟩ := hshows
  exact ⟨hdone, hmatch.mpr rfl, hpayload⟩

/-- Settles O23, from the two effects that end a frame as failed. -/
theorem decoderFailureCausesAndEffect : Obligations.DecoderFailureCausesAndEffect :=
  fun _ _ _ hexec => (effect_of_exec hexec).failure

/-- Settles O29: the command has the same effect whatever RX_ACC and CRC_MATCH hold. -/
theorem successIndependentOfChecksum : Obligations.SuccessIndependentOfChecksum := by
  intro i s acc hit
  obtain ⟨t, hexec, heffect⟩ := exec_effect i s
  obtain ⟨acc', hit', heffect'⟩ := heffect.ignores_checksum acc hit
  exact ⟨t, withChecksum acc' hit' t, hexec, heffect'.exec_eq, rfl, rfl, rfl, rfl, rfl, rfl, rfl⟩

/-- Settles O53: the loop stands still once it has ended. -/
theorem bytesAfterTerminatorIgnored : Obligations.BytesAfterTerminatorIgnored := by
  intro r t hreached
  rw [decodeFrame_eq (r ++ t), List.foldl_append, foldl_take_of_decodeFrame hreached, Progress.foldl_take_ended]
  rfl

/-- Settles O54: RX_START empties RX_FIFO, and from there each command is accepted while the payload fits. -/
theorem rxRoomDecidesAcceptance : Obligations.RxRoomDecidesAcceptance := by
  intro r p f s hdecode
  have hend : (r.map Instr.rxByte ++ [Instr.rxEnd]).foldl Progress.feed (.data []) = .ended (.ok p f) := by
    rw [Progress.foldl_feed_stream, ← decodeFrame_eq, hdecode]
  have hstart := CommandEffect.exec_eq (.rxStart (s := s))
  have hfits := acceptedRun_iff_fits (fun _ => decoderCommand_of_mem) (tracks_rxStart hstart) (Nat.zero_le _) hend
  rwa [← acceptedRun_cons_ok hstart rfl] at hfits

/-- Settles O15. -/
theorem rxStartRule : Obligations.RxStartRule :=
  ⟨datalessEncoding (i := .rxStart) (by decide), fun _ => CommandEffect.rxStart.exec_eq⟩

/-- Settles O16. -/
theorem rxBytePhaseRule : Obligations.RxBytePhaseRule := by
  refine ⟨byteEncoding fun _ => rfl, fun s d => ⟨fun h => exec_rxByte_idle h d, fun h => exec_rxByte_over h d, ?_⟩⟩
  rintro hdata rfl
  exact exec_rxByte_marker hdata

/-- Settles O17, by what the delay line does with a decoded byte. -/
theorem rxByteTakesDecodedByte : Obligations.RxByteTakesDecodedByte := fun _ _ _ hd =>
  ⟨fun hhold => exec_rxByte_held hd hhold.ne, fun _ _ hhold =>
    ⟨exec_rxByte_full hd hhold, exec_rxByte_committed hd hhold⟩⟩

/-- Settles O18, by how many bytes the delay line holds. -/
theorem rxByteTerminatorRule : Obligations.RxByteTerminatorRule := fun _ hdata =>
  ⟨fun hhold => (CommandEffect.rxShort hdata hhold).exec_eq,
    fun _ _ hhold => (CommandEffect.rxDone hdata hhold).exec_eq⟩

/-- Settles O19. -/
theorem rxEndRule : Obligations.RxEndRule :=
  ⟨datalessEncoding (i := .rxEnd) (by decide), fun _ => ⟨exec_rxEnd_idle, exec_rxEnd_open, exec_rxEnd_over⟩⟩

end Sys2Proof.Machine
end

section
/-! SUPPORT. What the registers read when every element has its reset value (70_reset_and_hazards.md R170, R171). -/

namespace Sys2Proof.Machine

theorem blockReset_resetState (s : State) : BlockReset (resetState s) where
  g := resetState_g s
  txPhase := resetState_txPhase s
  txFifo := resetState_txFifo s
  txLen := resetState_txLen s
  rxPhase := resetState_rxPhase s
  rxHold := resetState_rxHold s
  rxFifo := resetState_rxFifo s
  rxLen := resetState_rxLen s
  rxAcc := resetState_rxAcc s
  rxFcs := resetState_rxFcs s
  crcMatch := resetState_crcMatch s
  rxErr := resetState_rxErr s
  cmdResult := resetState_cmdResult s

/-- R171: only CRC shows an element whose reset value is not zero there, G = 0xFFFF beside its complement. -/
theorem BlockReset.readReg_word {s : State} (h : BlockReset s) (r : Reg) :
    (readReg r s).1 = if r = .crc then 0x0000FFFF else 0x00000000 := by
  cases r with
  | cmd => rfl
  | status =>
    simp only [readReg, statusWord, holdCount, h.rxErr, h.cmdResult, h.rxHold, h.crcMatch, h.rxPhase, h.txPhase]
    rfl
  | crc => rw [readReg, crcWord, h.g]; rfl
  | txout => rw [readReg, popTx_nil h.txFifo]; rfl
  | rxout => rw [readReg, popRx_nil h.rxFifo]; rfl
  | txcount => rw [readReg, txCountWord, h.txLen, h.txFifo]; rfl
  | rxcount => rw [readReg, rxCountWord, h.rxLen, h.rxFifo]; rfl
  | rxcrc => rw [readReg, rxCrcWord, h.rxAcc, h.rxFcs]; rfl

end Sys2Proof.Machine
end

section
/-! PROOFS. The statements about the control commands (43_control.md). -/

namespace Sys2Proof.Machine

/-- Settles O9. -/
theorem nopRule : Obligations.NopRule :=
  ⟨datalessEncoding (i := .nop) (by decide), fun _ => CommandEffect.nop.exec_eq⟩

/-- Settles O20: SOFT_RESET has one effect, and the state it leads to is reset. -/
theorem softResetRule : Obligations.SoftResetRule := by
  refine ⟨datalessEncoding (i := .softReset) (by decide), fun s => ?_⟩
  have hreset := blockReset_resetState s
  exact ⟨_, CommandEffect.softReset.exec_eq, hreset, resetState_rstN s, resetState_params s, resetState_pending s,
    resetState_observed s, hreset.readReg_word⟩

end Sys2Proof.Machine
end

section
/-! SUPPORT. Which code a command reports and what a word written to CMD does (60_exceptions.md R150, R152, R155), what a
decoder that has failed keeps (R158), and the step without an event (R165). -/

namespace Sys2Proof.Machine

/-- The code of a command is decided by R152's causes in R155's order, SEQUENCE before FULL. -/
theorem CommandEffect.result_cases {i : Instr} {s t : State} (h : CommandEffect i s t) :
    OutOfSequence i s ∧ t.cmdResult = .sequence
      ∨ ¬ OutOfSequence i s ∧ NoRoom i s ∧ t.cmdResult = .full
      ∨ ¬ OutOfSequence i s ∧ ¬ NoRoom i s ∧ t.cmdResult = .ok := by
  by_cases hseq : OutOfSequence i s
  · cases h.exec_eq.symm.trans (exec_outOfSequence hseq)
    exact .inl ⟨hseq, rfl⟩
  by_cases hroom : NoRoom i s
  · cases h.exec_eq.symm.trans (exec_noRoom hseq hroom)
    exact .inr (.inl ⟨hseq, hroom, rfl⟩)
  refine .inr (.inr ⟨hseq, hroom, ?_⟩)
  cases h with
  | sequence hseq' => exact absurd hseq' hseq
  | full _ hroom' => exact absurd hroom' hroom
  | _ => rfl

/-- A word written to CMD is rejected with ILLEGAL, or has an effect of the command it decodes to (R53, R72). -/
theorem writeReg_cmd_cases (w : Word) (s : State) :
    (∃ e, decodeWord w = .error e ∧ writeReg .cmd w s = .next { s with cmdResult := .illegal })
      ∨ ∃ i t, decodeWord w = .ok i ∧ writeReg .cmd w s = .next t ∧ CommandEffect i s t := by
  cases hw : decodeWord w with
  | error e => exact .inl ⟨e, rfl, rejectedAsIllegal_of_error hw s⟩
  | ok i =>
    obtain ⟨t, hexec, heffect⟩ := exec_effect i s
    exact .inr ⟨i, t, rfl, (writeCommand_ok hw s).trans hexec, heffect⟩

/-- In FAIL the decoder's commands other than RX_START write CMD_RESULT only, and the other engines' commands write no
element of the decoder (R124, R125, R158). -/
theorem CommandEffect.decoder_kept_of_fail {i : Instr} {s t : State} (h : CommandEffect i s t)
    (hfail : s.rxPhase = .fail) (hstart : i ≠ .rxStart) (hreset : i ≠ .softReset) :
    t.rxPhase = s.rxPhase ∧ t.rxHold = s.rxHold ∧ t.rxFifo = s.rxFifo ∧ t.rxLen = s.rxLen ∧ t.rxAcc = s.rxAcc
      ∧ t.rxFcs = s.rxFcs ∧ t.crcMatch = s.crcMatch ∧ t.rxErr = s.rxErr := by
  obtain hkept | rfl | ⟨d, rfl⟩ | rfl := h.decoder_writers hreset
  · exact hkept
  · exact absurd rfl hstart
  · cases h.exec_eq.symm.trans (exec_rxByte_over (.inr hfail) d)
    exact ⟨rfl, rfl, rfl, rfl, rfl, rfl, rfl, rfl⟩
  · cases h.exec_eq.symm.trans (exec_rxEnd_over (.inr hfail))
    exact ⟨rfl, rfl, rfl, rfl, rfl, rfl, rfl, rfl⟩

theorem step_nil {s : State} (h : s.pending = []) : step s = .next s := by
  simp only [step, nextEvent, h]

end Sys2Proof.Machine
end

section
/-! PROOFS. The statements about rejected commands, decoder failures and steps without an event (60_exceptions.md). -/

namespace Sys2Proof.Machine

/-- Settles O21: ILLEGAL by whether the word decodes, the other codes by the command's causes. -/
theorem rejectionCodesAndPriority : Obligations.RejectionCodesAndPriority := by
  intro w s
  obtain ⟨e, hw, hwrite⟩ | ⟨i, t, hw, hwrite, heffect⟩ := writeReg_cmd_cases w s
  · exact ⟨_, hwrite, by simp [hw]⟩
  · refine ⟨t, hwrite, ?_⟩
    obtain ⟨hseq, hres⟩ | ⟨hseq, hroom, hres⟩ | ⟨hseq, hroom, hres⟩ := heffect.result_cases
    · simp [hw, hseq, hres]
    · simp [hw, hseq, hroom, hres]
    · simp [hw, hseq, hroom, hres]

/-- Settles O22: an illegal word writes CMD_RESULT only, and so does a rejected command. -/
theorem rejectionChangesOnlyResult : Obligations.RejectionChangesOnlyResult := by
  intro w s t hwrite hrej
  obtain ⟨e, -, hnext⟩ | ⟨i, u, -, hnext, heffect⟩ := writeReg_cmd_cases w s
  · cases hwrite.symm.trans hnext
    rfl
  · cases hwrite.symm.trans hnext
    exact heffect.eq_setResult_of_rejected hrej

/-- Settles O24: every command has an effect, and in FAIL only those of RX_START and SOFT_RESET touch the decoder. -/
theorem decoderFailurePersists : Obligations.DecoderFailurePersists := by
  intro i s hfail hstart hreset
  obtain ⟨t, hexec, heffect⟩ := exec_effect i s
  obtain ⟨hphase, hhold, hfifo, hlen, hacc, hfcs, hmatch, herr⟩ :=
    heffect.decoder_kept_of_fail hfail hstart hreset
  exact ⟨t, hexec, hphase.trans hfail, herr, hhold, hfifo, hlen, hacc, hfcs, hmatch⟩

/-- Settles O40. -/
theorem idleStepKeepsState : Obligations.IdleStepKeepsState := fun _ => step_nil

end Sys2Proof.Machine
end

section
/-! SUPPORT. The two reset sources and the reset pin (70_reset_and_hazards.md R170, R172): which step leaves the pin low,
and a read when both FIFOs are empty. -/

namespace Sys2Proof.Machine

theorem readReg_rstN (r : Reg) (s : State) : (readReg r s).2.rstN = s.rstN := by
  obtain h | h | h := readReg_state_cases r s <;> rw [h]

/-- With rst_n low nothing reaches the block over the bus (R172): the pin is low after an event only where the block was
left alone or where the event drove the pin low. -/
theorem EventEffect.eq_of_pin_low {s t : State} (h : EventEffect s t) (hlow : t.rstN = false) :
    t = s ∨ t = { resetState s with rstN := false } := by
  cases h with
  | kept => exact .inl rfl
  | resetLow => exact .inr rfl
  | read r hpin => exact absurd (((readReg_rstN r s).trans hpin).symm.trans hlow) (by decide)
  | illegal hpin => exact absurd (hpin.symm.trans hlow) (by decide)
  | command hpin heffect =>
    obtain ⟨-, hkept, -, -⟩ := heffect.host_side
    exact absurd ((hkept.trans hpin).symm.trans hlow) (by decide)
  | resetHigh => cases hlow

theorem step_resetLow {s : State} {rest : List HostEvent} (h : s.pending = .resetLow :: rest) :
    step s = .next { resetState s with rstN := false, pending := rest } := step_event h

theorem blockReset_reset : BlockReset State.reset := blockReset_resetState State.reset

/-- A read of TXOUT or RXOUT finds nothing to pop, and no other read changes the block (R55 to R57). -/
theorem BlockReset.readReg_state {s : State} (h : BlockReset s) (r : Reg) : (readReg r s).2 = s := by
  cases r with
  | txout => rw [readReg, popTx_nil h.txFifo]
  | rxout => rw [readReg, popRx_nil h.rxFifo]
  | _ => rfl

end Sys2Proof.Machine
end

section
/-! PROOFS. The statements about reset (70_reset_and_hazards.md). -/

namespace Sys2Proof.Machine

/-- Settles O32: the pin is low after a step only where the block keeps its state or is reset. -/
theorem blockHeldInReset : Obligations.BlockHeldInReset := by
  intro s t hheld hstep hlow
  obtain ⟨rest, heffect⟩ := step_effect hstep
  obtain rfl | rfl := heffect.eq_of_pin_low hlow
  · exact { hheld hlow with }
  · exact { blockReset_resetState s with }

/-- Settles O1: each source leads to `resetState`, the pin event with the pin low besides. -/
theorem bothResetSourcesGiveResetValues : Obligations.BothResetSourcesGiveResetValues := by
  refine ⟨blockReset_reset, fun s => ?_, fun s rest hpending => ?_⟩
  · exact ⟨_, CommandEffect.softReset.exec_eq, blockReset_resetState s, resetState_rstN s, resetState_params s,
      resetState_pending s, resetState_observed s⟩
  · exact ⟨_, step_resetLow hpending, { blockReset_resetState s with }, rfl, resetState_params s, rfl,
      resetState_observed s⟩

/-- Settles O2: the read's word and the state after it, both from the reset values. -/
theorem registersReadResetValues : Obligations.RegistersReadResetValues := by
  intro r
  have hreset : BlockReset { State.reset with pending := [] } := blockReset_reset
  rw [step_read rfl rfl, hreset.readReg_word, hreset.readReg_state]
  rfl

end Sys2Proof.Machine
end
